-- ==== Sys2Proof/Word.lean ====
section
/-! DEFINITION. The bit vectors of CORE: a stream byte and a command or response word (00_scope.md R11, 30_encoding.md R80). -/

namespace Sys2Proof

/-- One byte of a stream, bit 0 its least significant bit (R11, R50). -/
abbrev Byte := BitVec 8

/-- A command word or a response word (R80, R85). -/
abbrev Word := BitVec 16

end Sys2Proof
end

