-- ==== Sys2Proof/Config.lean ====
section
/-! DEFINITION. The parameters of CORE (00_scope.md R9): the one the spec leaves open for the machine itself, and the fixed numbers. -/

namespace Sys2Proof

/-- What is fixed for one machine: `CW`, the width in bits of a count, a weight and `SPOS` (R9, decision D8, OPEN).
It stands in `Machine.State.cfg`, which no command changes, so a statement over all states is a statement over every `CW`.
The counts themselves are exact naturals: the spec bounds them below `2^CW` (R132, R134), so no wrap can be seen. -/
structure Config where
  cw : Nat
deriving DecidableEq, Repr

/-- The value the spec gives `CW` when the model's user gives none (R9: "OPEN, default 64"). -/
def Config.standard : Config := { cw := 64 }

/-- A symbol: 0 to 255 are the byte values, 256 is the terminator (R9 `NSYM` = 257, R16). -/
abbrev Sym := Fin 257

/-- The terminator's symbol number (R9 `TERM` = 256). -/
def TERM : Sym := ⟨256, by decide⟩

/-- The byte symbol paired with the terminator when the input is empty (R9 `DUMMY` = 0x00, R146). -/
def DUMMY : Sym := ⟨0, by decide⟩

/-- The index of a node in the arena `NODE[0 .. 512]` (R9 `NNODE` = 513, R30). -/
abbrev NodeIx := Fin 513

/-- A node handle: an index of the arena, or `NIL` (here `none`); the handles 513 to 1022 are no states (U12). -/
abbrev Handle := Option NodeIx

/-- A handle as the 10 bits the register or the node field holds (R9 `HW` = 10, `NIL` = 0x3FF). -/
def Handle.bits : Handle → BitVec 10
  | none   => 0x3FF#10
  | some h => BitVec.ofNat 10 h.val

/-- How many frames a walk over a tree can need: depth at most `MAXLEN` = 256, and the leaf's own frame (R10, R46). -/
def maxFrames : Nat := 257

/-- How many header tokens `DESTREE` can read: 513 in a header that parses, 514 in one that fails (R174). -/
def maxTokens : Nat := 514

end Sys2Proof
end

