-- ==== Sys2Proof/Syntax.lean ====
section
/-! DEFINITION. The commands of CORE, the header tokens, and what the host may do between commands
(30_encoding.md R81, R86; 10_state.md R40, R42, R43; spec/opcode_table.json). -/

namespace Sys2Proof

/-- One constructor for each row of spec/opcode_table.json: the seventeen commands of R81 in the table's order, then
the three header tokens of R86. A command is one transition of CORE (R7, R225). A token is an instruction of the
header stream that `DESTREE` reads (R88, R91, R171): it is never decoded from a command word. -/
inductive Instr where
  | openr
  | openw
  | rdbit
  | rdbyte
  | wrbit (b : Bool)
  | wrbyte (v : Byte)
  | close
  | freq
  | build
  | codes
  | sertree
  | destree
  | putsym (v : Byte)
  | putterm
  | getsym
  | compress
  | decompress
  | int
  | leafb (b : Byte)
  | leaft
deriving DecidableEq, Repr

/-- The header tokens of R86, as `SERTREE` writes them and `DESTREE` reads them. -/
inductive Token where
  | int
  | leafb (b : Byte)
  | leaft
deriving DecidableEq, Repr

/-- A token as an instruction. -/
def Token.instr : Token → Instr
  | .int     => .int
  | .leafb b => .leafb b
  | .leaft   => .leaft

/-- An instruction that is a header token, as a token. -/
def Instr.token? : Instr → Option Token
  | .int     => some .int
  | .leafb b => some (.leafb b)
  | .leaft   => some .leaft
  | .openr | .openw | .rdbit | .rdbyte | .wrbit _ | .wrbyte _ | .close | .freq | .build | .codes | .sertree
  | .destree | .putsym _ | .putterm | .getsym | .compress | .decompress => none

/-- The instruction is a command: a host can ask for it by a command word (R80, R81). -/
def Instr.isCommand (i : Instr) : Bool := i.token?.isNone

/-- The instruction's row of spec/opcode_table.json, by its mnemonic (R81, R86). -/
def Instr.mnemonic : Instr → String
  | .openr      => "OPENR"
  | .openw      => "OPENW"
  | .rdbit      => "RDBIT"
  | .rdbyte     => "RDBYTE"
  | .wrbit _    => "WRBIT"
  | .wrbyte _   => "WRBYTE"
  | .close      => "CLOSE"
  | .freq       => "FREQ"
  | .build      => "BUILD"
  | .codes      => "CODES"
  | .sertree    => "SERTREE"
  | .destree    => "DESTREE"
  | .putsym _   => "PUTSYM"
  | .putterm    => "PUTTERM"
  | .getsym     => "GETSYM"
  | .compress   => "COMPRESS"
  | .decompress => "DECOMPRESS"
  | .int        => "INT"
  | .leafb _    => "LEAFB"
  | .leaft      => "LEAFT"

/-- The source the host binds (R40): whether there is one, its bytes, and the index at which a pull fails, if any. -/
structure Source where
  present : Bool
  data    : List Byte
  errAt   : Option Nat
deriving DecidableEq, Repr

/-- The sink the host binds (R42): whether there is one, the bytes written so far, and the number of bytes at which a
push fails, if any. -/
structure Sink where
  present : Bool
  data    : List Byte
  cap     : Option Nat
deriving DecidableEq, Repr

/-- What the host may do between commands (R43): issue a command word, bind, rebind or unbind a stream (unbinding is
binding an absent one; giving a new output file is binding an empty sink), and assert reset (R250). -/
inductive HostAct where
  | command (w : Word)
  | bindSource (src : Source)
  | bindSink (snk : Sink)
  | reset
deriving DecidableEq, Repr

end Sys2Proof
end

