-- ==== Sys2Proof/WellFormed.lean ====
section
/-! DEFINITION. Which words, headers and sources are well formed (30_encoding.md R82, R83, R89; 10_state.md R40;
41_frequency.md R134; U7). These checks are written from the spec's tables, apart from the decoder. -/

namespace Sys2Proof

/-- A row of spec/opcode_table.json: a word `w` is this command exactly when `w &&& mask = pattern`. -/
structure OpRow where
  mnemonic : String
  pattern  : Word
  mask     : Word
deriving DecidableEq, Repr

/-- The seventeen command rows of the opcode table, in its order. -/
def opRows : List OpRow :=
  [ ⟨"OPENR", 0x0100, 0xFFFF⟩, ⟨"OPENW", 0x0200, 0xFFFF⟩, ⟨"RDBIT", 0x0300, 0xFFFF⟩, ⟨"RDBYTE", 0x0400, 0xFFFF⟩,
    ⟨"WRBIT", 0x0500, 0xFFFE⟩, ⟨"WRBYTE", 0x0600, 0xFF00⟩, ⟨"CLOSE", 0x0700, 0xFFFF⟩ ]
  ++ [ ⟨"FREQ", 0x1000, 0xFFFF⟩, ⟨"BUILD", 0x1100, 0xFFFF⟩, ⟨"CODES", 0x1200, 0xFFFF⟩, ⟨"SERTREE", 0x1300, 0xFFFF⟩,
    ⟨"DESTREE", 0x1400, 0xFFFF⟩ ]
  ++ [ ⟨"PUTSYM", 0x1800, 0xFF00⟩, ⟨"PUTTERM", 0x1900, 0xFFFF⟩, ⟨"GETSYM", 0x1A00, 0xFFFF⟩,
    ⟨"COMPRESS", 0x2000, 0xFFFF⟩, ⟨"DECOMPRESS", 0x2100, 0xFFFF⟩ ]

/-- The word is this row's command. -/
def OpRow.matches (r : OpRow) (w : Word) : Bool := w &&& r.mask == r.pattern

/-- A command word is legal when it is one of the table's commands (R83: every other word is illegal). -/
def legalWord (w : Word) : Bool := opRows.any (·.matches w)

/-- An instruction is well formed. The operands are typed as the field values R82 and R87 allow (a bit for `WRBIT`, any
byte for `WRBYTE`, `PUTSYM` and `LEAFB`, nothing else), so there is no ill-formed instruction to refuse: what can be
ill formed is a command word (`legalWord`), a header (`headerWf`) or a source (`Source.legal`). -/
def Instr.wellFormed : Instr → Bool
  | .openr | .openw | .rdbit | .rdbyte | .wrbit _ | .wrbyte _ | .close | .freq | .build | .codes | .sertree
  | .destree | .putsym _ | .putterm | .getsym | .compress | .decompress | .int | .leafb _ | .leaft => true

/-- The symbol a leaf token names (R86, R87). -/
def Token.sym? : Token → Option Sym
  | .int     => none
  | .leafb b => some ⟨b.toNat, by have := b.isLt; omega⟩
  | .leaft   => some TERM

/-- Reads `k` whole subtrees off a token list by the grammar of R88; the answer is the tokens left over. -/
def dropTrees : Nat → List Token → Option (List Token)
  | 0,     ts => some ts
  | _ + 1, [] => none
  | k + 1, .int :: ts => dropTrees (k + 2) ts
  | k + 1, .leafb _ :: ts => dropTrees k ts
  | k + 1, .leaft :: ts => dropTrees k ts

/-- The symbols on the leaves of a header, in its order. -/
def headerLeaves (ts : List Token) : List Sym := ts.filterMap Token.sym?

/-- A header is well formed (R89): it is exactly one tree by the grammar (a), no symbol stands on two leaves (b), and the
terminator is a leaf (c; given (b), at least one is exactly one). -/
def headerWf (ts : List Token) : Bool :=
  decide (dropTrees 1 ts = some []) && decide (headerLeaves ts).Nodup && decide (TERM ∈ headerLeaves ts)

/-- A source the spec admits (R40, R134): shorter than `2^CW` bytes, and an error position, if any, at most its length.
A model refuses any other (U7). -/
def Source.legal (cfg : Config) (src : Source) : Bool :=
  decide (src.data.length < 2 ^ cfg.cw) && (match src.errAt with
    | none => true
    | some e => decide (e ≤ src.data.length))

end Sys2Proof
end

