-- ==== Sys2Proof/Decode.lean ====
section
/-! DEFINITION. The decoder of command words and of header tokens, total and rejecting by name, and the encoder
(30_encoding.md R80 to R83, R86 to R88; U14). -/

namespace Sys2Proof

/-- The bits of a byte in stream order, most significant first (R56, R57). -/
def byteBits (v : Byte) : List Bool :=
  [v.getLsbD 7, v.getLsbD 6, v.getLsbD 5, v.getLsbD 4, v.getLsbD 3, v.getLsbD 2, v.getLsbD 1, v.getLsbD 0]

/-- A byte from eight bits in stream order, `b7` first. -/
def bitsByte (b7 b6 b5 b4 b3 b2 b1 b0 : Bool) : Byte :=
  BitVec.ofBool b7 ++ BitVec.ofBool b6 ++ BitVec.ofBool b5 ++ BitVec.ofBool b4 ++
    BitVec.ofBool b3 ++ BitVec.ofBool b2 ++ BitVec.ofBool b1 ++ BitVec.ofBool b0

/-- Why a command word is illegal (R83). -/
inductive WordError where
  /-- `op` is none of the seventeen assigned values (R81). -/
  | unassignedOpcode
  /-- An operand bit that R82 requires to be 0 is 1. -/
  | operandNotZero
deriving DecidableEq, Repr

/-- `cmd[15:8]` (R80). -/
def opField (w : Word) : Byte := w.extractLsb' 8 8

/-- `cmd[7:0]` (R80). -/
def argField (w : Word) : Byte := w.extractLsb' 0 8

/-- A command with no operand: `arg` must be 0 (R82). -/
def noOperand (arg : Byte) (i : Instr) : Except WordError Instr :=
  if arg = 0#8 then .ok i else .error .operandNotZero

/-- `WRBIT`: the bit is `arg[0]`, and `arg[7:1]` must be 0 (R82). -/
def bitOperand (arg : Byte) : Except WordError Instr :=
  if arg.extractLsb' 1 7 = 0#7 then .ok (.wrbit (arg.getLsbD 0)) else .error .operandNotZero

/-- The decoder of command words: the opcode map of R81, the operands of R82, everything else illegal (R83). -/
def decodeWord (w : Word) : Except WordError Instr :=
  let arg := argField w
  match (opField w).toNat with
  | 0x01 => noOperand arg .openr
  | 0x02 => noOperand arg .openw
  | 0x03 => noOperand arg .rdbit
  | 0x04 => noOperand arg .rdbyte
  | 0x05 => bitOperand arg
  | 0x06 => .ok (.wrbyte arg)
  | 0x07 => noOperand arg .close
  | 0x10 => noOperand arg .freq
  | 0x11 => noOperand arg .build
  | 0x12 => noOperand arg .codes
  | 0x13 => noOperand arg .sertree
  | 0x14 => noOperand arg .destree
  | 0x18 => .ok (.putsym arg)
  | 0x19 => noOperand arg .putterm
  | 0x1A => noOperand arg .getsym
  | 0x20 => noOperand arg .compress
  | 0x21 => noOperand arg .decompress
  | _    => .error .unassignedOpcode

/-- Why no token can be read off a list of bits: the bits end inside it. Every bit pattern starts some token (R89). -/
inductive TokenError where
  | bitsEnd
deriving DecidableEq, Repr

/-- Reads one header token off a list of bits in stream order (R86); the answer holds the bits left over. -/
def decodeToken : List Bool → Except TokenError (Token × List Bool)
  | false :: r => .ok (.int, r)
  | true :: true :: r => .ok (.leaft, r)
  | true :: false :: b7 :: b6 :: b5 :: b4 :: b3 :: b2 :: b1 :: b0 :: r => .ok (.leafb (bitsByte b7 b6 b5 b4 b3 b2 b1 b0), r)
  | _ => .error .bitsEnd

/-- The bits of a header token in stream order (R86, R87). -/
def Token.bits : Token → List Bool
  | .int     => [false]
  | .leafb b => true :: false :: byteBits b
  | .leaft   => [true, true]

/-- How an instruction stands outside CORE: a command in a 16-bit word, a token in bits of a stream (30_encoding.md). -/
inductive Encoding where
  | word (w : Word)
  | bits (l : List Bool)
deriving DecidableEq, Repr

/-- Why an encoding is no instruction. -/
inductive DecodeError where
  | illegalWord (e : WordError)
  | noToken (e : TokenError)
  /-- The bits hold a token and more. -/
  | bitsAfterToken
deriving DecidableEq, Repr

/-- The decoder, total on any word and any list of bits. -/
def decode : Encoding → Except DecodeError Instr
  | .word w =>
    match decodeWord w with
    | .ok i    => .ok i
    | .error e => .error (.illegalWord e)
  | .bits l =>
    match decodeToken l with
    | .ok (t, [])     => .ok t.instr
    | .ok (_, _ :: _) => .error .bitsAfterToken
    | .error e        => .error (.noToken e)

/-- A command word from its two fields (R80). -/
def cmdWord (op arg : Byte) : Word := op ++ arg

/-- The encoder: the word of a command (R80 to R82), the bits of a token (R86). -/
def encode : Instr → Encoding
  | .openr      => .word (cmdWord 0x01 0)
  | .openw      => .word (cmdWord 0x02 0)
  | .rdbit      => .word (cmdWord 0x03 0)
  | .rdbyte     => .word (cmdWord 0x04 0)
  | .wrbit b    => .word (cmdWord 0x05 (if b then 1 else 0))
  | .wrbyte v   => .word (cmdWord 0x06 v)
  | .close      => .word (cmdWord 0x07 0)
  | .freq       => .word (cmdWord 0x10 0)
  | .build      => .word (cmdWord 0x11 0)
  | .codes      => .word (cmdWord 0x12 0)
  | .sertree    => .word (cmdWord 0x13 0)
  | .destree    => .word (cmdWord 0x14 0)
  | .putsym v   => .word (cmdWord 0x18 v)
  | .putterm    => .word (cmdWord 0x19 0)
  | .getsym     => .word (cmdWord 0x1A 0)
  | .compress   => .word (cmdWord 0x20 0)
  | .decompress => .word (cmdWord 0x21 0)
  | .int        => .bits Token.int.bits
  | .leafb b    => .bits (Token.leafb b).bits
  | .leaft      => .bits Token.leaft.bits

/-- The bits of a header: its tokens one after another, nothing between them (R59, R88). -/
def headerBits (ts : List Token) : List Bool := ts.flatMap Token.bits

/-- The token a row of the opcode table stands for when its pattern is read as a number, its last bit bit 0: in the
row's own 1, 2 or 10 bits, or, for `INT` and `LEAFT`, in one whole byte. Sixteen bits are always a command word
(R80, R83), so `LEAFB` has no form of two whole bytes. -/
def tokenOfTableWord (nbits w : Nat) : Option Token :=
  if nbits = 10 then (if 0x200 ≤ w ∧ w < 0x300 then some (.leafb (BitVec.ofNat 8 w)) else none)
  else if nbits = 1 ∨ nbits = 2 ∨ nbits = 8 then
    (if w = 0 ∧ nbits ≠ 2 then some .int else if w = 3 ∧ nbits ≠ 1 then some .leaft else none)
  else none

/-- The instruction this decoder reads from the bits `w` of an opcode-table row of `nbits` bits. -/
def decodeTableWord (nbits w : Nat) : Option Instr :=
  match tokenOfTableWord nbits w with
  | some t => some t.instr
  | none =>
    if nbits = 16 then
      match decodeWord (BitVec.ofNat 16 w) with
      | .ok i    => some i
      | .error _ => none
    else none

/-! Every row's decoding, on a word written out from its encoding in spec/opcode_table.json. -/

theorem decode_openr : decodeWord 0b0000000100000000#16 = .ok .openr := by rfl
theorem decode_openw : decodeWord 0b0000001000000000#16 = .ok .openw := by rfl
theorem decode_rdbit : decodeWord 0b0000001100000000#16 = .ok .rdbit := by rfl
theorem decode_rdbyte : decodeWord 0b0000010000000000#16 = .ok .rdbyte := by rfl
theorem decode_wrbit : decodeWord 0b0000010100000001#16 = .ok (.wrbit true) := by rfl
theorem decode_wrbyte : decodeWord 0b0000011001100001#16 = .ok (.wrbyte 0x61) := by rfl
theorem decode_close : decodeWord 0b0000011100000000#16 = .ok .close := by rfl
theorem decode_freq : decodeWord 0b0001000000000000#16 = .ok .freq := by rfl
theorem decode_build : decodeWord 0b0001000100000000#16 = .ok .build := by rfl
theorem decode_codes : decodeWord 0b0001001000000000#16 = .ok .codes := by rfl
theorem decode_sertree : decodeWord 0b0001001100000000#16 = .ok .sertree := by rfl
theorem decode_destree : decodeWord 0b0001010000000000#16 = .ok .destree := by rfl
theorem decode_putsym : decodeWord 0b0001100001100010#16 = .ok (.putsym 0x62) := by rfl
theorem decode_putterm : decodeWord 0b0001100100000000#16 = .ok .putterm := by rfl
theorem decode_getsym : decodeWord 0b0001101000000000#16 = .ok .getsym := by rfl
theorem decode_compress : decodeWord 0b0010000000000000#16 = .ok .compress := by rfl
theorem decode_decompress : decodeWord 0b0010000100000000#16 = .ok .decompress := by rfl
theorem decode_int : decode (.bits [false]) = .ok .int := by rfl
theorem decode_leafb : decode (.bits [true, false, false, true, true, false, false, false, true, false]) = .ok (.leafb 0x62) := by rfl
theorem decode_leaft : decode (.bits [true, true]) = .ok .leaft := by rfl

end Sys2Proof
end

