-- ==== Sys2Proof/Machine/State.lean ====
section
/-! DEFINITION. The state of CORE as plain data, the reasons a step can stop, and the state after reset
(10_state.md; 60_exceptions.md R215). -/

namespace Sys2Proof.Machine

/-- `BC.DIR`: 0 `CLOSED`, 1 `READ`, 2 `WRITE`; the value 3 is no state of the machine (R24, U12). -/
inductive Dir where
  | closed
  | read
  | write
deriving DecidableEq, Repr

/-- The failures of a command, codes 1 to 7 (R215). -/
inductive Failure where
  | ioError
  | invalidDirection
  | endOfStream
  | corruptHeader
  | truncatedStream
  | illegalCommand
  | notReady
deriving DecidableEq, Repr

/-- `STATUS`: `OK`, or the failure of the command that ended last (R28, R215); codes 8 to 15 are no states (U12). -/
inductive Status where
  | ok
  | failed (f : Failure)
deriving DecidableEq, Repr

/-- An entry of the node arena, with the five fields of R30. -/
structure Node where
  leaf  : Bool
  sym   : Sym
  left  : Handle
  right : Handle
  w     : Nat
deriving DecidableEq, Repr

/-- An entry of the code table (R35). The field `len` of R35 is the number of bits of `code`: see `CodeEntry.len`. -/
structure CodeEntry where
  v    : Bool
  code : List Bool
deriving DecidableEq, Repr

/-- `CT[s].len` (R35): a code is "a sequence of `len` bits", so its length is stored once, in the sequence. -/
def CodeEntry.len (e : CodeEntry) : Nat := e.code.length

/-- Which child of an Internal node a header parse is reading: the part of `des()` still to run after the recursive
call returns (R171: `NODE[h].left <- l` and the right subtree, or `NODE[h].right <- r`). -/
inductive Frame where
  | left (h : NodeIx)
  | right (h : NodeIx)
deriving DecidableEq, Repr

/-- The transient values of a header parse (R46, R172): the symbols seen, the count of `INT` tokens, and the calls of
`des()` that have not returned, innermost first. -/
structure HeaderParse where
  seen  : List Sym
  nint  : Fin 257
  stack : List Frame
deriving DecidableEq, Repr

/-- A parse before its first token (R171). -/
def HeaderParse.start : HeaderParse := { seen := [], nint := ⟨0, by decide⟩, stack := [] }

/-- The state of CORE, of the two streams of the host, and of the words between them. -/
structure State where
  /-- `CW` (R9): not written by anything. -/
  cfg    : Config
  /-- `BC.DIR` (R24). -/
  dir    : Dir
  /-- `BC.BUF` (R25, R26). -/
  buf    : Byte
  /-- `BC.CNT`, 0 to 8 (R22, R27). -/
  cnt    : Fin 9
  /-- `SPOS` (R37). -/
  spos   : Nat
  /-- `STATUS` (R28). -/
  status : Status
  /-- `FAULTS` (R28). -/
  faults : BitVec 8
  /-- `RES`, 0 to 256 (R28, U12). -/
  res    : Sym
  /-- `FT_V` (R29). -/
  ftV    : Bool
  /-- `TREE_V` (R29). -/
  treeV  : Bool
  /-- `CT_V` (R29). -/
  ctV    : Bool
  /-- `ROOT` (R22). -/
  root   : Handle
  /-- `NCNT`, 0 to 513 (R22, R30). -/
  ncnt   : Fin 514
  /-- `FT[0 .. 255]` (R34); an entry nothing has written has no value (R45, U9). -/
  ft     : Vector (Option Nat) 256
  /-- `NODE[0 .. 512]` (R30); an entry nothing has written has no value (R45, U9). -/
  node   : Vector (Option Node) 513
  /-- `CT[0 .. 256]` (R35); an entry nothing has written has no value (R45, U9). -/
  ct     : Vector (Option CodeEntry) 257
  /-- The MODEL'S OWN field, not the spec's: a header parse that is being run token by token. A command never leaves one
  behind: `DESTREE` and `DECOMPRESS` run their parse whole (R225), and the value is `none` in every state a run reaches
  (log entry 6). -/
  hdr    : Option HeaderParse
  /-- `SRC`, the host's (R40). -/
  src    : Source
  /-- `SNK`, the host's (R42). -/
  snk    : Sink
  /-- What the host does next, in order (R43): the command words it presents and its moves between them. -/
  inbox  : List HostAct
  /-- The response words that have gone out, oldest first (R85, R222). -/
  resp   : List Word
deriving DecidableEq, Repr

/-- Why the machine stops. Each of these needs a state that breaks an invariant of the spec (R27, R31, R36, R45); no run
reaches one, and the machine then has no rule to go on by. All are safe: they give no value. -/
inductive Fault where
  /-- A read of a table entry that nothing has written (R45, U9: "a read that faults"). Raised by the reads of `FT`,
  `NODE` and `CT`. Safe. -/
  | unwrittenEntry
  /-- A `NIL` handle is followed (R30: an Internal node in use has two children). Raised by the tree walks. Safe. -/
  | nilHandle
  /-- A tree walk passes 257 frames, so the arena holds no tree (R10, R31, R46). Raised by the tree walks. Safe. -/
  | treeTooDeep
  /-- A 514th node is allocated (R9, R30: 513 entries). Raised by the allocation. Safe. -/
  | arenaFull
  /-- A bit is written while `BC.CNT` is 8 (R27: at most 7 before a command). Raised by the bit write. Safe. -/
  | bufferOverrun
  /-- `BUILD`'s queue is empty (R147: it never is). Raised by the merge loop. Safe. -/
  | emptyQueue
  /-- A loop passes the bound the spec derives for it (R174, R206, R264). Raised by the loops over the source, the merges,
  the header tokens and the decoded symbols. Safe. -/
  | loopBound
deriving DecidableEq, Repr

/-- Why a step has no meaning to give. -/
inductive Refusal where
  /-- The instruction has no meaning in this model. Raised by `exec`'s arms. Safe. -/
  | notModelled (mnemonic : String)
  /-- The host binds a source of `2^CW` bytes or more, or one whose error position lies past its end (R40, R134; U7: "a
  model refuses it"). Raised by the host's bind. Safe. -/
  | sourceOutsideSpec
  /-- A header token is run while no header is being parsed: tokens "are read bit by bit from a stream, not decoded from
  a word" (INDEX.md), so it is nobody's instruction there. Raised by `INT`, `LEAFB` and `LEAFT`. Safe. -/
  | tokenOutsideHeader
deriving DecidableEq, Repr

/-- No source is bound (10_state.md R43: the host binds one). -/
def noSource : Source := { present := false, data := [], errAt := none }

/-- No sink is bound. -/
def noSink : Sink := { present := false, data := [], cap := none }

/-- The state after reset: the registers of R44, tables without values (R45), and, since reset touches neither the source
nor the sink (R251), the host's side as the log names it: nothing bound, nothing presented, nothing answered
(log entries 3, 4, 5, 6). -/
def State.reset : State where
  cfg    := Config.standard
  dir    := .closed
  buf    := 0#8
  cnt    := ⟨0, by decide⟩
  spos   := 0
  status := .ok
  faults := 0#8
  res    := ⟨0, by decide⟩
  ftV    := false
  treeV  := false
  ctV    := false
  root   := none
  ncnt   := ⟨0, by decide⟩
  ft     := Vector.replicate 256 none
  node   := Vector.replicate 513 none
  ct     := Vector.replicate 257 none
  hdr    := none
  src    := noSource
  snk    := noSink
  inbox  := []
  resp   := []

/-! The updates of the state, each under its own name; their field lemmas stand in Sys2Proof/Laws/State.lean. -/

def State.withChan (s : State) (d : Dir) (b : Byte) (c : Fin 9) : State := { s with dir := d, buf := b, cnt := c }
def State.withBuf (s : State) (b : Byte) (c : Fin 9) : State := { s with buf := b, cnt := c }
def State.withSpos (s : State) (n : Nat) : State := { s with spos := n }
def State.withSnkData (s : State) (l : List Byte) : State := { s with snk := { s.snk with data := l } }
def State.withFlags (s : State) (f t c : Bool) : State := { s with ftV := f, treeV := t, ctV := c }
def State.withTree (s : State) (r : Handle) (n : Fin 514) : State := { s with root := r, ncnt := n }
def State.withFt (s : State) (f : Vector (Option Nat) 256) : State := { s with ft := f }
def State.withNode (s : State) (f : Vector (Option Node) 513) : State := { s with node := f }
def State.withCt (s : State) (f : Vector (Option CodeEntry) 257) : State := { s with ct := f }
def State.withHdr (s : State) (p : Option HeaderParse) : State := { s with hdr := p }
def State.withInbox (s : State) (l : List HostAct) : State := { s with inbox := l }
/-- `STATUS`, `FAULTS` and `RES` written, and the response word put out. -/
def State.withEnd (s : State) (st : Status) (f : BitVec 8) (r : Sym) (w : Word) : State :=
  { s with status := st, faults := f, res := r, resp := s.resp ++ [w] }

end Sys2Proof.Machine
end

