-- ==== Sys2Proof/Machine/Flags.lean ====
section
/-! DEFINITION. Status codes, the sticky record `FAULTS`, and the response word (60_exceptions.md R215, R217;
10_state.md R28; 30_encoding.md R85). -/

namespace Sys2Proof.Machine

/-- The code of a failure (R215). -/
def Failure.code : Failure → BitVec 4
  | .ioError          => 1
  | .invalidDirection => 2
  | .endOfStream      => 3
  | .corruptHeader    => 4
  | .truncatedStream  => 5
  | .illegalCommand   => 6
  | .notReady         => 7

/-- The code in `STATUS` (R215). -/
def Status.code : Status → BitVec 4
  | .ok       => 0
  | .failed f => f.code

/-- The two bits of `BC.DIR` (R24). -/
def Dir.code : Dir → BitVec 2
  | .closed => 0
  | .read   => 1
  | .write  => 2

/-- `FAULTS[c] <- 1` for the failure of code `c`; no other bit changes (R28, R222). -/
def recordFault (faults : BitVec 8) (f : Failure) : BitVec 8 := faults ||| (1#8 <<< f.code.toNat)

/-- The response word: status in 15:12, zeros in 11:9, the result in 8:0 (R85). -/
def respWord (st : Status) (r : Sym) : Word := st.code ++ (0#3) ++ (BitVec.ofNat 9 r.val)

end Sys2Proof.Machine
end

