-- ==== Sys2Proof/Machine/Operands.lean ====
section
/-! DEFINITION. How an operand or a byte becomes a symbol, a result or a bit (30_encoding.md R82, R87; 10_state.md R28). -/

namespace Sys2Proof.Machine

/-- `zext_9` of a byte: the byte's symbol number, 0 to 255 (R82, R87). -/
def byteSym (v : Byte) : Sym := ⟨v.toNat, by have := v.isLt; omega⟩

/-- `zext_9` of a bit, as `RDBIT` puts it in `RES` (R28, R118). -/
def bitSym (b : Bool) : Sym := if b then ⟨1, by decide⟩ else ⟨0, by decide⟩

/-- `s[7:0]` of a symbol (R166, R203). -/
def symByte (s : Sym) : Byte := BitVec.ofNat 8 s.val

/-- `v[i] <- b` for a byte (R112, R113). -/
def setBit (v : Byte) (i : Nat) (b : Bool) : Byte :=
  if b then v ||| (1#8 <<< i) else v &&& ~~~(1#8 <<< i)

/-- The 256 byte values in ascending order. -/
def allBytes : List Byte := (List.range 256).map (BitVec.ofNat 8)

end Sys2Proof.Machine
end

