-- ==== Sys2Proof/Machine/Ops.lean ====
section
/-! DEFINITION. The operations the commands share: failures and the end of a command (60_exceptions.md R222), the streams
(20_memory.md R52 to R54), the BitChannel primitives (40_bitchannel.md R110 to R115), and the tables (10_state.md R30). -/

namespace Sys2Proof.Machine

/-- How an operation inside a command ends: it completes, it raises a failure (the changes made before it stay made,
R14), or the state broke an invariant and there is no rule to go on by. -/
inductive Res (α : Type) where
  | ok (a : α) (s : State)
  | raise (f : Failure) (s : State)
  | stuck (r : Fault)
deriving DecidableEq, Repr

/-- Go on after an operation that completed; a failure passes on (R14). -/
def Res.bind {α β : Type} (r : Res α) (k : α → State → Res β) : Res β :=
  match r with
  | .ok a s    => k a s
  | .raise f s => .raise f s
  | .stuck e   => .stuck e

/-- `on EndOfStream: raise f` (R14, R221). -/
def Res.onEnd {α : Type} (r : Res α) (f : Failure) : Res α :=
  match r with
  | .ok a s    => .ok a s
  | .raise g s => .raise (if g = .endOfStream then f else g) s
  | .stuck e   => .stuck e

/-- `finally: g`, on success and on failure alike (R189, R203, R224). -/
def Res.finally {α : Type} (r : Res α) (g : State → State) : Res α :=
  match r with
  | .ok a s    => .ok a (g s)
  | .raise f s => .raise f (g s)
  | .stuck e   => .stuck e

/-! ## The end of a command (R222) -/

/-- A command completes: `STATUS <- 0`, `RES <-` its result, `FAULTS` unchanged, the response word goes out (R222). -/
def endOk (r : Sym) (s : State) : State := s.withEnd .ok s.faults r (respWord .ok r)

/-- THE ENTRY OF A FAILURE, CORE's analogue of taking an exception: `STATUS <- c`, `FAULTS[c] <- 1`, `RES <- 0`, the
response word goes out (R217, R222). Control goes nowhere and nothing is saved, so there is no return (R226). -/
def endFail (f : Failure) (s : State) : State :=
  s.withEnd (.failed f) (recordFault s.faults f) ⟨0, by decide⟩ (respWord (.failed f) ⟨0, by decide⟩)

/-- The end of a command whose body returns its result. -/
def finish (r : Res Sym) : Host.Outcome State Fault Refusal :=
  match r with
  | .ok v s    => .next (endOk v s)
  | .raise f s => .next (endFail f s)
  | .stuck e   => .fault e

/-- The end of a command that returns no result: `RES <- 0` (R28). -/
def finishUnit (r : Res Unit) : Host.Outcome State Fault Refusal :=
  finish (r.bind fun _ s => .ok ⟨0, by decide⟩ s)

/-! ## The streams -/

/-- `SrcPull()` (R52): absent source, error position, end of data, in this order (R223). A position at or past the end
holds no more bytes and answers `End` (log entry 7). -/
def srcPull (s : State) : Res (Option Byte) :=
  if s.src.present = false then .raise .ioError s
  else if s.src.errAt = some s.spos then .raise .ioError s
  else match s.src.data[s.spos]? with
    | none   => .ok none s
    | some b => .ok (some b) (s.withSpos (s.spos + 1))

/-- `SrcRewind()` (R53). -/
def srcRewind (s : State) : Res Unit :=
  if s.src.present = false then .raise .ioError s else .ok () (s.withSpos 0)

/-- `SnkPush(b)` (R54). -/
def snkPush (b : Byte) (s : State) : Res Unit :=
  if s.snk.present = false then .raise .ioError s
  else if s.snk.cap = some s.snk.data.length then .raise .ioError s
  else .ok () (s.withSnkData (s.snk.data ++ [b]))

/-! ## The BitChannel -/

/-- The last two lines of `ReadBit()` (R111): `BC.CNT` goes down by one and names the bit that is returned. -/
def takeBit (s : State) : Res Bool :=
  .ok (s.buf.getLsbD (s.cnt.val - 1)) (s.withBuf s.buf ⟨s.cnt.val - 1, by have := s.cnt.isLt; omega⟩)

/-- `ReadBit()` (R110, R111). -/
def readBit (s : State) : Res Bool :=
  if s.dir ≠ .read then .raise .invalidDirection s
  else if s.cnt.val = 0 then
    (srcPull s).bind fun r s =>
      match r with
      | none   => .raise .endOfStream s
      | some b => takeBit (s.withBuf b ⟨8, by decide⟩)
  else takeBit s

/-- The loop of `ReadByte()`: the bits `n - 1` down to 0 of `v` are read (R112). -/
def readBits : Nat → Byte → State → Res Byte
  | 0,     v, s => .ok v s
  | n + 1, v, s => (readBit s).bind fun b s => readBits n (setBit v n b) s

/-- `ReadByte()` (R112). -/
def readByte (s : State) : Res Byte := readBits 8 0#8 s

/-- `WriteBit(b)` (R110, R113): when the eighth bit arrives the buffer is emptied, then the byte is pushed. -/
def writeBit (b : Bool) (s : State) : Res Unit :=
  if s.dir ≠ .write then .raise .invalidDirection s
  else if h : s.cnt.val < 8 then
    let v := setBit s.buf (7 - s.cnt.val) b
    if s.cnt.val + 1 = 8 then snkPush v (s.withBuf 0#8 ⟨0, by decide⟩)
    else .ok () (s.withBuf v ⟨s.cnt.val + 1, by omega⟩)
  else .stuck .bufferOverrun

/-- Bits written one after another, first bit first; a failure passes on (R114, R185). -/
def writeBits : List Bool → State → Res Unit
  | [],     s => .ok () s
  | b :: l, s => (writeBit b s).bind fun _ s => writeBits l s

/-- `WriteByte(v)`: `v[7]` first, `v[0]` last (R114). -/
def writeByte (v : Byte) (s : State) : Res Unit := writeBits (byteBits v) s

/-- `Flush()` (R115). -/
def flush (s : State) : Res Unit :=
  if 0 < s.cnt.val then snkPush s.buf (s.withBuf 0#8 ⟨0, by decide⟩) else .ok () s

/-- `BC.DIR <- CLOSED; BC.BUF <- 0; BC.CNT <- 0`. -/
def closeChan (s : State) : State := s.withChan .closed 0#8 ⟨0, by decide⟩

/-- `release()` of the macro commands (R189, R224): a write channel is flushed, a failure of that push is dropped, and
the channel is closed. -/
def release (s : State) : State :=
  if s.dir = .write then
    match flush s with
    | .ok _ t    => closeChan t
    | .raise _ t => closeChan t
    | .stuck _   => closeChan s
  else closeChan s

/-! ## The tables -/

/-- `FT[v]`. -/
def readFt (v : Byte) (s : State) : Res Nat :=
  match s.ft[v.toNat]'(by have := v.isLt; omega) with
  | none   => .stuck .unwrittenEntry
  | some c => .ok c s

/-- `FT[v] <- c`. -/
def writeFt (v : Byte) (c : Nat) (s : State) : State :=
  s.withFt (s.ft.set v.toNat (some c) (by have := v.isLt; omega))

/-- `NODE[h]`. -/
def readNode (h : NodeIx) (s : State) : Res Node :=
  match s.node[h.val]'h.isLt with
  | none   => .stuck .unwrittenEntry
  | some e => .ok e s

/-- `NODE[h] <- e`. -/
def writeNode (h : NodeIx) (e : Node) (s : State) : State := s.withNode (s.node.set h.val (some e) h.isLt)

/-- `alloc(e)`: `NODE[NCNT] <- e; h <- NCNT; NCNT <- NCNT + 1; return h` (R30). -/
def alloc (e : Node) (s : State) : Res NodeIx :=
  if h : s.ncnt.val < 513 then
    .ok ⟨s.ncnt.val, h⟩ ((writeNode ⟨s.ncnt.val, h⟩ e s).withTree s.root ⟨s.ncnt.val + 1, by omega⟩)
  else .stuck .arenaFull

/-- The node a handle names; `NIL` names none. -/
def follow (h : Handle) (s : State) : Res NodeIx :=
  match h with
  | none   => .stuck .nilHandle
  | some h => .ok h s

/-- `CT[x]`. -/
def readCt (x : Sym) (s : State) : Res CodeEntry :=
  match s.ct[x.val]'x.isLt with
  | none   => .stuck .unwrittenEntry
  | some e => .ok e s

/-- `CT[x] <- e`. -/
def writeCt (x : Sym) (e : CodeEntry) (s : State) : State := s.withCt (s.ct.set x.val (some e) x.isLt)

/-- A Leaf of the arena (R30). -/
def leafNode (x : Sym) (w : Nat) : Node := { leaf := true, sym := x, left := none, right := none, w := w }

/-- An Internal node of the arena (R30). -/
def innerNode (l r : Handle) (w : Nat) : Node := { leaf := false, sym := ⟨0, by decide⟩, left := l, right := r, w := w }

end Sys2Proof.Machine
end

