-- ==== Sys2Proof/Machine/BitChannel.lean ====
section
/-! DEFINITION. The BitChannel commands `OPENR` `OPENW` `RDBIT` `RDBYTE` `WRBIT` `WRBYTE` `CLOSE` (40_bitchannel.md R116
to R122). -/

namespace Sys2Proof.Machine

/-- The body of `OPENR` (R116). -/
def openrBody (s : State) : Res Unit :=
  if s.dir ≠ .closed then .raise .notReady s
  else if s.src.present = false then .raise .ioError s
  else (srcRewind s).bind fun _ s => .ok () (s.withChan .read 0#8 ⟨0, by decide⟩)

def execOpenr (s : State) : Host.Outcome State Fault Refusal := finishUnit (openrBody s)

/-- The body of `OPENW` (R117): the sink keeps what it holds. -/
def openwBody (s : State) : Res Unit :=
  if s.dir ≠ .closed then .raise .notReady s
  else if s.snk.present = false then .raise .ioError s
  else .ok () (s.withChan .write 0#8 ⟨0, by decide⟩)

def execOpenw (s : State) : Host.Outcome State Fault Refusal := finishUnit (openwBody s)

/-- `RDBIT` (R118): the bit in `RES[0]`. -/
def execRdbit (s : State) : Host.Outcome State Fault Refusal :=
  finish ((readBit s).bind fun b s => .ok (bitSym b) s)

/-- `RDBYTE` (R119): the byte in `RES[7:0]`. -/
def execRdbyte (s : State) : Host.Outcome State Fault Refusal :=
  finish ((readByte s).bind fun v s => .ok (byteSym v) s)

/-- `WRBIT` (R120). -/
def execWrbit (b : Bool) (s : State) : Host.Outcome State Fault Refusal := finishUnit (writeBit b s)

/-- `WRBYTE` (R121). -/
def execWrbyte (v : Byte) (s : State) : Host.Outcome State Fault Refusal := finishUnit (writeByte v s)

/-- The body of `CLOSE` (R122): the channel ends closed even when the last push fails. -/
def closeBody (s : State) : Res Unit :=
  if s.dir = .write then (flush s).finally closeChan else .ok () (closeChan s)

def execClose (s : State) : Host.Outcome State Fault Refusal := finishUnit (closeBody s)

end Sys2Proof.Machine
end

