-- ==== Sys2Proof/Machine/CodeTable.lean ====
section
/-! DEFINITION. The CodeTable command `CODES` (43_codetable.md R155, R156). -/

namespace Sys2Proof.Machine

/-- `walk(h, c)` (R156), with the frames it may still use (R46). -/
def codesWalk : Nat → NodeIx → List Bool → State → Res Unit
  | 0,     _, _, _ => .stuck .treeTooDeep
  | n + 1, h, c, s =>
    (readNode h s).bind fun e s =>
      if e.leaf then .ok () (writeCt e.sym { v := true, code := c } s)
      else
        (follow e.left s).bind fun l s =>
          (codesWalk n l (c ++ [false]) s).bind fun _ s =>
            (follow e.right s).bind fun r s => codesWalk n r (c ++ [true]) s

/-- The body of `CODES` (R156). -/
def codesBody (s : State) : Res Unit :=
  if s.treeV = false then .raise .notReady s
  else
    (follow s.root ((s.withFlags s.ftV s.treeV false).withCt (Vector.replicate 257 (some { v := false, code := [] })))).bind
      fun r s => (codesWalk maxFrames r [] s).bind fun _ s => .ok () (s.withFlags s.ftV s.treeV true)

def execCodes (s : State) : Host.Outcome State Fault Refusal := finishUnit (codesBody s)

end Sys2Proof.Machine
end

