-- ==== Sys2Proof/Machine/FrequencyTable.lean ====
section
/-! DEFINITION. The FrequencyTable command `FREQ` (41_frequency.md R131). -/

namespace Sys2Proof.Machine

/-- The loop of `FREQ`: pull, and count the byte, until the end of the source (R131). It is given one turn for each byte
and one for the end (R264). -/
def freqLoop : Nat → State → Res Unit
  | 0,     _ => .stuck .loopBound
  | n + 1, s =>
    (srcPull s).bind fun r s =>
      match r with
      | none   => .ok () s
      | some b => (readFt b s).bind fun c s => freqLoop n (writeFt b (c + 1) s)

/-- The body of `FREQ` (R131). -/
def freqBody (s : State) : Res Unit :=
  if s.dir = .read then .raise .notReady s
  else
    (srcRewind (s.withFlags false false false)).bind fun _ s =>
      (freqLoop (s.src.data.length + 1) (s.withFt (Vector.replicate 256 (some 0)))).bind fun _ s =>
        .ok () (s.withFlags true s.treeV s.ctV)

def execFreq (s : State) : Host.Outcome State Fault Refusal := finishUnit (freqBody s)

end Sys2Proof.Machine
end

