-- ==== Sys2Proof/Machine/TreeBuilder.lean ====
section
/-! DEFINITION. The TreeBuilder command `BUILD` (42_treebuilder.md R141 to R148). There is no relocation step (R148). -/

namespace Sys2Proof.Machine

/-- An entry of the transient queue `Q` (R142): a handle and the weight of its node. -/
structure QEntry where
  h : NodeIx
  w : Nat
deriving DecidableEq, Repr

/-- The order of removal: the pair (weight, handle), least first (R143). -/
def QEntry.before (a b : QEntry) : Bool := a.w < b.w || (a.w == b.w && decide (a.h.val < b.h.val))

/-- `popmin(Q)`: the least entry and the queue without it (R143). -/
def popMin : List QEntry → Option (QEntry × List QEntry)
  | [] => none
  | x :: q =>
    match popMin q with
    | none => some (x, [])
    | some (m, rest) => if x.before m then some (x, q) else some (m, x :: rest)

/-- Every entry of a list has a value. -/
def allWritten {α : Type} : List (Option α) → Option (List α)
  | [] => some []
  | none :: _ => none
  | some a :: l =>
    match allWritten l with
    | none => none
    | some r => some (a :: r)

/-- The bytes of positive count with their counts, in ascending order (R140, R141). -/
def presentBytes (counts : List Nat) : List (Sym × Nat) :=
  ((allBytes.zip counts).filter (fun p => decide (0 < p.2))).map (fun p => (byteSym p.1, p.2))

/-- The leaves `BUILD` makes, in the order it makes them: the bytes present, or the `DUMMY` byte when there is none
(R146), then the terminator with weight 0 (R141, R142). -/
def buildLeaves (counts : List Nat) : List (Sym × Nat) :=
  match presentBytes counts with
  | [] => [(DUMMY, 0), (TERM, 0)]
  | l  => l ++ [(TERM, 0)]

/-- The leaves are allocated and enter the queue (R141). -/
def allocLeaves : List (Sym × Nat) → List QEntry → State → Res (List QEntry)
  | [],          q, s => .ok q s
  | (x, w) :: l, q, s => (alloc (leafNode x w) s).bind fun h s => allocLeaves l (⟨h, w⟩ :: q) s

/-- The merges (R141, R144): the two least nodes get a parent, `left` the first popped, whose weight is their sum, until
one node is left. At most 256 merges (R264), and a last look that finds one node. -/
def mergeLoop : Nat → List QEntry → State → Res NodeIx
  | 0,     _, _ => .stuck .loopBound
  | n + 1, q, s =>
    match popMin q with
    | none => .stuck .emptyQueue
    | some (a, q1) =>
      match popMin q1 with
      | none => .ok a.h s
      | some (b, q2) =>
        (alloc (innerNode (some a.h) (some b.h) (a.w + b.w)) s).bind fun h s => mergeLoop n (⟨h, a.w + b.w⟩ :: q2) s

/-- The body of `BUILD` (R141). -/
def buildBody (s : State) : Res Unit :=
  if s.ftV = false then .raise .notReady s
  else
    match allWritten s.ft.toList with
    | none => .stuck .unwrittenEntry
    | some counts =>
      (allocLeaves (buildLeaves counts) [] ((s.withFlags s.ftV false false).withTree none ⟨0, by decide⟩)).bind fun q s =>
        (mergeLoop maxFrames q s).bind fun r s =>
          .ok () ((s.withTree (some r) s.ncnt).withFlags s.ftV true s.ctV)

def execBuild (s : State) : Host.Outcome State Fault Refusal := finishUnit (buildBody s)

end Sys2Proof.Machine
end

