-- ==== Sys2Proof/Machine/TreeCodec.lean ====
section
/-! DEFINITION. The TreeCodec commands `SERTREE` and `DESTREE`, and the header tokens `INT` `LEAFB` `LEAFT` that the one
writes and the other runs (44_treecodec.md R166, R171 to R173; 30_encoding.md R86 to R89). -/

namespace Sys2Proof.Machine

/-! ## Writing a header -/

/-- The token of a Leaf (R86, R166). -/
def leafToken (x : Sym) : Token := if x = TERM then .leaft else .leafb (symByte x)

/-- A token is written through the channel (R86, R166). -/
def writeToken (t : Token) (s : State) : Res Unit := writeBits t.bits s

/-- `ser(h)` (R166), with the frames it may still use (R46). -/
def serWalk : Nat → NodeIx → State → Res Unit
  | 0,     _, _ => .stuck .treeTooDeep
  | n + 1, h, s =>
    (readNode h s).bind fun e s =>
      if e.leaf then writeToken (leafToken e.sym) s
      else
        (writeToken .int s).bind fun _ s =>
          (follow e.left s).bind fun l s =>
            (serWalk n l s).bind fun _ s =>
              (follow e.right s).bind fun r s => serWalk n r s

/-- The body of `SERTREE` (R166): the direction is tested before the tree. -/
def sertreeBody (s : State) : Res Unit :=
  if s.dir ≠ .write then .raise .invalidDirection s
  else if s.treeV = false then .raise .notReady s
  else (follow s.root s).bind fun r s => serWalk maxFrames r s

def execSertree (s : State) : Host.Outcome State Fault Refusal := finishUnit (sertreeBody s)

/-! ## Reading a header -/

/-- The bits of one token are read from the channel (R86, R171): the flag, then the terminator bit, then the byte. -/
def readToken (s : State) : Res Token :=
  (readBit s).bind fun f s =>
    if f then
      (readBit s).bind fun t s =>
        if t then .ok .leaft s else (readByte s).bind fun b s => .ok (.leafb b) s
    else .ok .int s

/-- `NODE[h].left <- l` (R171). -/
def setLeft (h l : NodeIx) (s : State) : Res Unit :=
  (readNode h s).bind fun e s => .ok () (writeNode h { e with left := some l } s)

/-- `NODE[h].right <- r` (R171). -/
def setRight (h r : NodeIx) (s : State) : Res Unit :=
  (readNode h s).bind fun e s => .ok () (writeNode h { e with right := some r } s)

/-- A call of `des()` returns `r` to the calls that wait for it (R171): a left child is linked and the right subtree comes
next; a right child is linked and its parent is returned in turn. The answer is the calls still waiting, and the root
when none is. -/
def returnTree : List Frame → NodeIx → State → Res (List Frame × Option NodeIx)
  | [],             r, s => .ok ([], some r) s
  | .left h :: st,  r, s => (setLeft h r s).bind fun _ s => .ok (.right h :: st, none) s
  | .right h :: st, r, s => (setRight h r s).bind fun _ s => returnTree st h s

/-- What `des()` does with an `INT` token (R171): the 257th is an error, else a node is allocated and its left subtree
comes next. -/
def parseInt (p : HeaderParse) (s : State) : Res (HeaderParse × Option NodeIx) :=
  if h : p.nint.val < 256 then
    (alloc (innerNode none none 0) s).bind fun n s =>
      .ok ({ p with nint := ⟨p.nint.val + 1, by omega⟩, stack := .left n :: p.stack }, none) s
  else .raise .corruptHeader s

/-- What `des()` does with a leaf token (R171): a symbol seen before is an error, else a leaf is allocated and returned. -/
def parseLeaf (x : Sym) (p : HeaderParse) (s : State) : Res (HeaderParse × Option NodeIx) :=
  if x ∈ p.seen then .raise .corruptHeader s
  else
    (alloc (leafNode x 0) s).bind fun n s =>
      (returnTree p.stack n s).bind fun q s =>
        .ok ({ p with seen := x :: p.seen, stack := q.1 }, q.2) s

/-- What `des()` does with a token. The answer holds the root when the token completed the tree. -/
def parseToken (t : Token) (p : HeaderParse) (s : State) : Res (HeaderParse × Option NodeIx) :=
  match t with
  | .int     => parseInt p s
  | .leafb b => parseLeaf (byteSym b) p s
  | .leaft   => parseLeaf TERM p s

/-- The tokens of a header are read and run, one after another, until the tree is complete (R88, R171, R174). -/
def parseLoop : Nat → HeaderParse → State → Res (HeaderParse × NodeIx)
  | 0,     _, _ => .stuck .loopBound
  | n + 1, p, s =>
    (readToken s).bind fun t s =>
      (parseToken t p s).bind fun q s =>
        match q.2 with
        | some r => .ok (q.1, r) s
        | none   => parseLoop n q.1 s

/-- The end of `DESTREE`'s body (R171): the terminator must have been seen (R173 case (d)). -/
def parseEnd (p : HeaderParse) (r : NodeIx) (s : State) : Res Unit :=
  if TERM ∈ p.seen then .ok () ((s.withTree (some r) s.ncnt).withFlags s.ftV true s.ctV) else .raise .corruptHeader s

/-- What `DESTREE` clears before its parse (R171). -/
def clearTree (s : State) : State := (s.withFlags s.ftV false false).withTree none ⟨0, by decide⟩

/-- The body of `DESTREE` (R171). -/
def destreeBody (s : State) : Res Unit :=
  if s.dir ≠ .read then .raise .invalidDirection s
  else ((parseLoop maxTokens .start (clearTree s)).onEnd .corruptHeader).bind fun q s => parseEnd q.1 q.2 s

def execDestree (s : State) : Host.Outcome State Fault Refusal := finishUnit (destreeBody s)

/-! ## The tokens as instructions -/

/-- How a token ends: the header goes on, with the parse's transient values kept for the next token; or the tree is
complete and the `DESTREE` the token belongs to ends; or the token raises that `DESTREE`'s failure (R171, R173, R222). -/
def finishToken (r : Res (HeaderParse × Option NodeIx)) : Host.Outcome State Fault Refusal :=
  match r with
  | .ok (p, none) s     => .next (s.withHdr (some p))
  | .ok (p, some n) s   => finishUnit (parseEnd p n (s.withHdr none))
  | .raise f s          => finishUnit (.raise f (s.withHdr none))
  | .stuck e            => .fault e

/-- A token run in the header that is being parsed. -/
def runToken (t : Token) (s : State) : Host.Outcome State Fault Refusal :=
  match s.hdr with
  | none   => .refused .tokenOutsideHeader
  | some p => finishToken (parseToken t p s)

/-- `INT` (R86, R171). -/
def execInt (s : State) : Host.Outcome State Fault Refusal := runToken .int s

/-- `LEAFB` (R86, R87, R171). -/
def execLeafb (b : Byte) (s : State) : Host.Outcome State Fault Refusal := runToken (.leafb b) s

/-- `LEAFT` (R86, R171). -/
def execLeaft (s : State) : Host.Outcome State Fault Refusal := runToken .leaft s

end Sys2Proof.Machine
end

