-- ==== Sys2Proof/Machine/Encoder.lean ====
section
/-! DEFINITION. The Encoder commands `PUTSYM` `PUTTERM` `COMPRESS` (45_encoder.md R185 to R191). -/

namespace Sys2Proof.Machine

/-- `putcode(s)` (R185): the code's bits, first bit first. -/
def putCode (x : Sym) (s : State) : Res Unit :=
  (readCt x s).bind fun e s => writeBits e.code s

/-- The body of `PUTSYM` (R186): the direction is tested before the table. -/
def putsymBody (v : Byte) (s : State) : Res Unit :=
  if s.dir ≠ .write then .raise .invalidDirection s
  else if s.ctV = false then .raise .notReady s
  else (readCt (byteSym v) s).bind fun e s => if e.v then putCode (byteSym v) s else .raise .notReady s

def execPutsym (v : Byte) (s : State) : Host.Outcome State Fault Refusal := finishUnit (putsymBody v s)

/-- The body of `PUTTERM` (R187). -/
def puttermBody (s : State) : Res Unit :=
  if s.dir ≠ .write then .raise .invalidDirection s
  else if s.ctV = false then .raise .notReady s
  else putCode TERM s

def execPutterm (s : State) : Host.Outcome State Fault Refusal := finishUnit (puttermBody s)

/-- Step 4 of `COMPRESS`: every byte of the source is pulled again and its code written (R189). One turn for each byte
and one for the end (R264). -/
def encodeLoop : Nat → State → Res Unit
  | 0,     _ => .stuck .loopBound
  | n + 1, s =>
    (srcPull s).bind fun r s =>
      match r with
      | none   => .ok () s
      | some b => (putsymBody b s).bind fun _ s => encodeLoop n s

/-- The steps of `COMPRESS` inside its `try` (R188, R189). -/
def compressSteps (s : State) : Res Unit :=
  (freqBody s).bind fun _ s =>
    (buildBody s).bind fun _ s =>
      (codesBody s).bind fun _ s =>
        (openwBody s).bind fun _ s =>
          (sertreeBody s).bind fun _ s =>
            (srcRewind s).bind fun _ s =>
              (encodeLoop (s.src.data.length + 1) s).bind fun _ s =>
                (puttermBody s).bind fun _ s => closeBody s

/-- What both macro commands test before anything is changed, in this order (R189, R203, R223). -/
def macroReady (s : State) : Res Unit :=
  if s.dir ≠ .closed then .raise .notReady s
  else if s.src.present = false then .raise .ioError s
  else if s.snk.present = false then .raise .ioError s
  else .ok () s

/-- The body of `COMPRESS` (R189): on every path the channel is released and the flags cleared (R191, R224). -/
def compressBody (s : State) : Res Unit :=
  (macroReady s).bind fun _ s =>
    (compressSteps s).finally fun s => (release s).withFlags false false false

def execCompress (s : State) : Host.Outcome State Fault Refusal := finishUnit (compressBody s)

end Sys2Proof.Machine
end

