-- ==== Sys2Proof/Machine/Decoder.lean ====
section
/-! DEFINITION. The Decoder commands `GETSYM` and `DECOMPRESS` (46_decoder.md R200 to R206). -/

namespace Sys2Proof.Machine

/-- The walk from a node to a leaf (R200, R201): a bit 0 goes left, a bit 1 right; the source must not end inside it. At
most 257 nodes are visited (R10, R201). -/
def getWalk : Nat → NodeIx → State → Res Sym
  | 0,     _, _ => .stuck .treeTooDeep
  | n + 1, h, s =>
    (readNode h s).bind fun e s =>
      if e.leaf then .ok e.sym s
      else
        ((readBit s).onEnd .truncatedStream).bind fun b s =>
          (follow (if b then e.right else e.left) s).bind fun h s => getWalk n h s

/-- The body of `GETSYM` (R201): the direction is tested before the tree. -/
def getsymBody (s : State) : Res Sym :=
  if s.dir ≠ .read then .raise .invalidDirection s
  else if s.treeV = false then .raise .notReady s
  else (follow s.root s).bind fun r s => getWalk maxFrames r s

def execGetsym (s : State) : Host.Outcome State Fault Refusal := finish (getsymBody s)

/-- Steps 2 and 3 of `DECOMPRESS` (R202, R203): symbols are decoded and pushed raw until the terminator. At most
`8 * len(SRC.data) + 1` turns (R206). -/
def decodeLoop : Nat → State → Res Unit
  | 0,     _ => .stuck .loopBound
  | n + 1, s =>
    (getsymBody s).bind fun x s =>
      if x = TERM then .ok () s else (snkPush (symByte x) s).bind fun _ s => decodeLoop n s

/-- The steps of `DECOMPRESS` inside its `try` (R203). -/
def decompressSteps (s : State) : Res Unit :=
  (openrBody s).bind fun _ s =>
    (destreeBody s).bind fun _ s =>
      (decodeLoop (8 * s.src.data.length + 1) s).bind fun _ s => closeBody s

/-- The body of `DECOMPRESS` (R203): on every path the channel is closed and the flags cleared (R205, R224). -/
def decompressBody (s : State) : Res Unit :=
  (macroReady s).bind fun _ s =>
    (decompressSteps s).finally fun s => (closeChan s).withFlags false false false

def execDecompress (s : State) : Host.Outcome State Fault Refusal := finishUnit (decompressBody s)

end Sys2Proof.Machine
end

