-- ==== Sys2Proof/Machine/Dispatch.lean ====
section
/-! DEFINITION. The dispatch: one arm for each instruction, each one direct call of its meaning. -/

namespace Sys2Proof.Machine

def exec (i : Instr) (s : State) : Host.Outcome State Fault Refusal :=
  match i with
  -- BitChannel
  | .openr => Sys2Proof.Machine.execOpenr s
  | .openw => Sys2Proof.Machine.execOpenw s
  | .rdbit => Sys2Proof.Machine.execRdbit s
  | .rdbyte => Sys2Proof.Machine.execRdbyte s
  | .wrbit b => Sys2Proof.Machine.execWrbit b s
  | .wrbyte v => Sys2Proof.Machine.execWrbyte v s
  | .close => Sys2Proof.Machine.execClose s
  -- FrequencyTable, TreeBuilder, CodeTable, TreeCodec
  | .freq => Sys2Proof.Machine.execFreq s
  | .build => Sys2Proof.Machine.execBuild s
  | .codes => Sys2Proof.Machine.execCodes s
  | .sertree => Sys2Proof.Machine.execSertree s
  | .destree => Sys2Proof.Machine.execDestree s
  -- Encoder and Decoder
  | .putsym v => Sys2Proof.Machine.execPutsym v s
  | .putterm => Sys2Proof.Machine.execPutterm s
  | .getsym => Sys2Proof.Machine.execGetsym s
  | .compress => Sys2Proof.Machine.execCompress s
  | .decompress => Sys2Proof.Machine.execDecompress s
  -- header tokens
  | .int => Sys2Proof.Machine.execInt s
  | .leafb b => Sys2Proof.Machine.execLeafb b s
  | .leaft => Sys2Proof.Machine.execLeaft s

end Sys2Proof.Machine
end

