-- ==== Sys2Proof/Machine/Fetch.lean ====
section
/-! DEFINITION. Where the next instruction comes from: the host's inbox (00_scope.md R7, 10_state.md R43, 20_memory.md
R71), or, inside a header that is run token by token, the channel (30_encoding.md R91); and the host's other moves. -/

namespace Sys2Proof.Machine

/-- A command word is presented: decoded and run, or illegal, which is tested before anything else is looked at (R83,
R218, R223). -/
def runCommand (w : Word) (s : State) : Host.Outcome State Fault Refusal :=
  match decodeWord w with
  | .ok i    => exec i s
  | .error _ => finishUnit (.raise .illegalCommand s)

/-- Reset (R250, R251, R45): every register of R22 to its reset value, the tables without values; the streams, what the
host has yet to present and what it has been answered are the host's and stay. -/
def applyReset (s : State) : State :=
  { State.reset with cfg := s.cfg, src := s.src, snk := s.snk, inbox := s.inbox, resp := s.resp }

/-- One move of the host (R43). A source outside the spec is refused (R40, R134, U7). -/
def hostAct (a : HostAct) (s : State) : Host.Outcome State Fault Refusal :=
  match a with
  | .command w    => runCommand w s
  | .bindSource r => if r.legal s.cfg then .next { s with src := r } else .refused .sourceOutsideSpec
  | .bindSink k   => .next { s with snk := k }
  | .reset        => .next (applyReset s)

/-- Outside a header the next instruction is the host's next move. With none presented CORE waits (R252): the state stays. -/
def commandStep (s : State) : Host.Outcome State Fault Refusal :=
  match s.inbox with
  | []     => .next s
  | a :: l => hostAct a (s.withInbox l)

/-- Inside a header the next instruction is the token at the read position (R91, R171). The source's end inside it is a
corrupt header (R173 case (a)). -/
def headerStep (s : State) : Host.Outcome State Fault Refusal :=
  match (readToken s).onEnd .corruptHeader with
  | .ok t s    => exec t.instr s
  | .raise f s => finishUnit (.raise f (s.withHdr none))
  | .stuck e   => .fault e

/-- The bytes of a list of bits, the last one filled up with zero bits (R12, R63); `fuel` bounds the number of bytes. -/
def packBits : Nat → List Bool → List Byte
  | 0,        _ => []
  | _ + 1,    [] => []
  | fuel + 1, l =>
    bitsByte (l.getD 0 false) (l.getD 1 false) (l.getD 2 false) (l.getD 3 false)
      (l.getD 4 false) (l.getD 5 false) (l.getD 6 false) (l.getD 7 false) :: packBits fuel (l.drop 8)

/-- A command word put in front of what the host has yet to present. -/
def placeCommand (s : State) (w : Word) : State :=
  { s with inbox := .command w :: s.inbox, hdr := none }

/-- A token put where a header's first token is read: a source that holds it, opened, and a parse that begins (R171). -/
def placeToken (s : State) (t : Token) : State :=
  { (clearTree (s.withChan .read 0#8 ⟨0, by decide⟩)) with
    hdr := some .start, spos := 0, src := { present := true, data := packBits t.bits.length t.bits, errAt := none } }

/-- The instruction of `nbits` bits `w`, as the opcode table numbers them, put where the next step finds it. -/
def placeTableWord (s : State) (nbits w : Nat) : State :=
  match tokenOfTableWord nbits w with
  | some t => placeToken s t
  | none   => placeCommand s (BitVec.ofNat 16 w)

end Sys2Proof.Machine
end

