-- ==== Sys2Proof/Machine/Step.lean ====
section
/-! DEFINITION. One step of the machine (00_scope.md R7, 20_memory.md R67, R68). -/

namespace Sys2Proof.Machine

/-- One step: inside a header that is run token by token, its next token; otherwise the host's next move, a command being
one whole transition (R7, R225). -/
def step (s : State) : Host.Outcome State Fault Refusal :=
  match s.hdr with
  | none   => commandStep s
  | some _ => headerStep s

/-- `s` with an instruction where the next step finds it, its bits numbered as spec/opcode_table.json numbers them. -/
def State.withFetchWord (s : State) (nbits w : Nat) : State := placeTableWord s nbits w

end Sys2Proof.Machine
end

