-- ==== Sys2Proof/Machine/Views.lean ====
section
/-! DEFINITION. What the spec's laws are said in: streams as bits (00_scope.md R12, 20_memory.md R56), the bits a channel
has still to return or has been given (10_state.md R39), abstract trees (R32) with their headers and codes
(30_encoding.md R88, 43_codetable.md R155), and commands issued one after another (20_memory.md R67). -/

namespace Sys2Proof.Machine

/-! ## Streams as bits -/

/-- The bits of a byte stream in stream order (R12, R56). -/
def streamBits (l : List Byte) : List Bool := l.flatMap byteBits

/-- Bit `k` of a stream: bit `7 - (k mod 8)` of byte `k div 8` (R12). -/
def streamBit? (l : List Byte) (k : Nat) : Option Bool := (l[k / 8]?).map fun v => v.getLsbD (7 - k % 8)

/-- The bytes of a list of bits, the last filled up with zero bits (R63). -/
def pack (l : List Bool) : List Byte := packBits l.length l

/-- The bits a read channel has still to return: those left in `BC.BUF`, then those of the source from `SPOS` on (R26). -/
def State.unread (s : State) : List Bool := (byteBits s.buf).drop (8 - s.cnt.val) ++ streamBits (s.src.data.drop s.spos)

/-- The bits in the sink and in the buffer of a write channel, first written first (R25, R66). -/
def State.written (s : State) : List Bool := streamBits s.snk.data ++ (byteBits s.buf).take s.cnt.val

/-! ## Abstract trees -/

/-- The abstract tree of a handle (R32). -/
inductive Tree where
  | leaf (x : Sym)
  | node (l r : Tree)
deriving DecidableEq, Repr

/-- The symbols on the leaves, left to right. -/
def Tree.leaves : Tree → List Sym
  | .leaf x   => [x]
  | .node l r => l.leaves ++ r.leaves

/-- How many nodes a tree has (R10: `2n - 1` for `n` leaves). -/
def Tree.size : Tree → Nat
  | .leaf _   => 1
  | .node l r => l.size + r.size + 1

/-- The depth of the deepest leaf (R10). -/
def Tree.depth : Tree → Nat
  | .leaf _   => 0
  | .node l r => max l.depth r.depth + 1

/-- The tokens of the header of a tree, in pre-order (R88, R165). -/
def Tree.tokens : Tree → List Token
  | .leaf x   => [leafToken x]
  | .node l r => .int :: (l.tokens ++ r.tokens)

/-- The header of a tree, in bits (R86, R88). -/
def Tree.header (t : Tree) : List Bool := headerBits t.tokens

/-- The code of a symbol: the path from the root to its leaf, 0 for left and 1 for right (R155). -/
def Tree.code? : Tree → Sym → Option (List Bool)
  | .leaf y,   x => if x = y then some [] else none
  | .node l r, x =>
    match l.code? x with
    | some c => some (false :: c)
    | none   =>
      match r.code? x with
      | some c => some (true :: c)
      | none   => none

/-- A tree the spec calls valid: no symbol labels two leaves, and the terminator is a leaf (R31 (c), (d)). -/
def Tree.Wf (t : Tree) : Prop := t.leaves.Nodup ∧ TERM ∈ t.leaves

/-- The abstract tree below a node of an arena, and the nodes it is made of, in pre-order; `none` where an entry has no
value, a child is `NIL`, or more than `fuel` frames are needed. -/
def absTree : Nat → Vector (Option Node) 513 → NodeIx → Option (Tree × List NodeIx)
  | 0,     _, _ => none
  | n + 1, a, h =>
    match a[h.val]'h.isLt with
    | none   => none
    | some e =>
      if e.leaf then some (.leaf e.sym, [h])
      else
        match e.left, e.right with
        | some l, some r =>
          match absTree n a l, absTree n a r with
          | some (tl, hl), some (tr, hr) => some (.node tl tr, h :: (hl ++ hr))
          | _, _ => none
        | _, _ => none

/-- `tree(ROOT)` and the nodes it is made of (R32). -/
def State.tree? (s : State) : Option (Tree × List NodeIx) :=
  match s.root with
  | none   => none
  | some r => absTree maxFrames s.node r

/-- The code table's entry for a symbol of a tree (R36, R156): its path, or no code. -/
def Tree.entry (t : Tree) (x : Sym) : CodeEntry :=
  match t.code? x with
  | some c => { v := true, code := c }
  | none   => { v := false, code := [] }

/-- The codes of a list of bytes, one after another (R59, R62). -/
def Tree.codes (t : Tree) (l : List Byte) : List Bool := l.flatMap fun b => (t.entry (byteSym b)).code

/-- The payload of a list of bytes: their codes, then the terminator's (R62). -/
def Tree.payload (t : Tree) (l : List Byte) : List Bool := t.codes l ++ (t.entry TERM).code

/-! ## Commands issued one after another -/

/-- Commands issued in order, whatever status each ends with (R67). -/
def issue : List Instr → State → Host.Outcome State Fault Refusal
  | [],     s => .next s
  | i :: l, s =>
    match exec i s with
    | .next t    => issue l t
    | .fault e   => .fault e
    | .refused e => .refused e

/-- Commands issued in order until one of them fails, as a pseudo-command does (R94). -/
def issueUntilFailure : List Instr → State → Host.Outcome State Fault Refusal
  | [],     s => .next s
  | i :: l, s =>
    match exec i s with
    | .next t    => if t.status = .ok then issueUntilFailure l t else .next t
    | .fault e   => .fault e
    | .refused e => .refused e

end Sys2Proof.Machine
end

