-- ==== Sys2Proof/Safety.lean ====
section
/-! DEFINITION. What a safe run is, in the terms the claims use: the invariants of the spec (10_state.md R27, R28, R31, R36,
R37, R40; 41_frequency.md R132, R134) and what a command may leave as it was. -/

namespace Sys2Proof.Machine

/-! ## Invariants -/

/-- The invariants of `BC` before and after every command (R27). -/
def ChannelOk (s : State) : Prop :=
  (s.dir = .closed → s.buf = 0#8 ∧ s.cnt.val = 0) ∧
  (s.dir = .write → s.cnt.val ≤ 7 ∧ ∀ i, i ≤ 7 - s.cnt.val → s.buf.getLsbD i = false) ∧
  (s.dir = .read → s.cnt.val ≤ 7)

/-- `FAULTS[0]` is 0, and the failure in `STATUS` is recorded in `FAULTS` with `RES = 0` (R28, R222). -/
def StatusOk (s : State) : Prop :=
  s.faults.getLsbD 0 = false ∧
  ∀ f, s.status = .failed f → s.faults.getLsbD f.code.toNat = true ∧ s.res.val = 0

/-- The source is one the spec admits, and `SPOS` fits `CW` bits (R37, R40, R134). -/
def SourceOk (s : State) : Prop := s.src.legal s.cfg = true ∧ s.spos < 2 ^ s.cfg.cw

/-- A valid frequency table has every entry, and its counts add up to less than `2^CW` (R29, R34, R132). -/
def FtOk (s : State) : Prop :=
  s.ftV = true → ∃ counts, allWritten s.ft.toList = some counts ∧ counts.sum < 2 ^ s.cfg.cw

/-- The weights of R31 (f): the weight of an Internal node in use is the sum of its children's, and every weight fits
`CW` bits. -/
def WeightsOk (s : State) (hs : List NodeIx) : Prop :=
  ∀ h ∈ hs, ∀ e, s.node[h.val]'h.isLt = some e →
    e.w < 2 ^ s.cfg.cw ∧
    ∀ l r el er, e.leaf = false → e.left = some l → e.right = some r →
      s.node[l.val]'l.isLt = some el → s.node[r.val]'r.isLt = some er → e.w = el.w + er.w

/-- The tree `tree` stands in the arena at `ROOT`, made of all the nodes in use, each once (R31 (a), (b)), with the leaves
(c), (d) and weights (f) of R31. -/
def HoldsTree (s : State) (tree : Tree) : Prop :=
  ∃ hs, s.tree? = some (tree, hs) ∧ hs.Nodup ∧ (∀ h : NodeIx, h ∈ hs ↔ h.val < s.ncnt.val) ∧ tree.Wf ∧ WeightsOk s hs

/-- `TREE_V = 1`: the arena holds a valid tree (R29, R31). -/
def TreeOk (s : State) : Prop := s.treeV = true → ∃ tree, HoldsTree s tree

/-- The code table holds the codes of `tree` (R36, R156). -/
def HoldsCodes (s : State) (tree : Tree) : Prop := ∀ x : Sym, s.ct[x.val]'x.isLt = some (tree.entry x)

/-- `CT_V = 1`: `CT` holds the codes of the tree in the arena (R29, R36). -/
def CodesOk (s : State) : Prop := s.ctV = true → s.treeV = true ∧ ∀ tree, HoldsTree s tree → HoldsCodes s tree

/-- No header is being run token by token: so between commands, always (R46, R225). -/
def NoHeader (s : State) : Prop := s.hdr = none

/-- The invariants of the machine together. -/
def Inv (s : State) : Prop :=
  ChannelOk s ∧ StatusOk s ∧ SourceOk s ∧ FtOk s ∧ TreeOk s ∧ CodesOk s ∧ NoHeader s

/-- No command of the run has failed (R228): the premise under which what the sink holds means anything. -/
def NoFailure (s : State) : Prop := s.faults = 0#8

/-! ## What the tree commands do to the arena -/

/-- The order of removal from `BUILD`'s queue: weight first, then handle (R143). -/
def Precedes (a : NodeIx) (ea : Node) (b : NodeIx) (eb : Node) : Prop :=
  ea.w < eb.w ∨ (ea.w = eb.w ∧ a.val < b.val)

/-- The node is no child of an Internal node of handle below `k`: it is in the queue when handle `k` is made, if it was
made before (R141). -/
def Unmerged (arena : Vector (Option Node) 513) (k x : NodeIx) : Prop :=
  ∀ (j : NodeIx) (e : Node), j.val < k.val → arena[j.val]'j.isLt = some e → e.leaf = false →
    e.left ≠ some x ∧ e.right ≠ some x

/-- The Internal node `e` of handle `k` is a merge of R144: its children are the two nodes that stood first in the queue,
the first on the left, and every other node then in the queue follows them (R141, R143). -/
def MergesTheLeast (arena : Vector (Option Node) 513) (k : NodeIx) (e : Node) : Prop :=
  ∃ (a b : NodeIx) (ea eb : Node), e.left = some a ∧ e.right = some b ∧ a.val < k.val ∧ b.val < k.val ∧
    arena[a.val]'a.isLt = some ea ∧ arena[b.val]'b.isLt = some eb ∧ e.w = ea.w + eb.w ∧
    Unmerged arena k a ∧ Unmerged arena k b ∧ Precedes a ea b eb ∧
    ∀ (x : NodeIx) (ex : Node), x.val < k.val → x ≠ a → x ≠ b → arena[x.val]'x.isLt = some ex → Unmerged arena k x →
      Precedes b eb x ex

/-- The calls of `des()` that wait for a right child, innermost first, get it one after another: the first the subtree `c`
that was just closed, each next one the one before it (R171). -/
def linkRights : NodeIx → List NodeIx → Vector (Option Node) 513 → Vector (Option Node) 513
  | _, [],      arena => arena
  | c, h :: hs, arena =>
    linkRights h hs (arena.set h.val ((arena[h.val]'h.isLt).map fun e => { e with right := some c }) h.isLt)

/-! ## What a source or a sink lets happen -/

/-- Where the pulls from `SPOS` on stop: at the error position, when it lies at or after `SPOS`, or at the end (R52). -/
def readLimit (s : State) : Nat :=
  match s.src.errAt with
  | none   => s.src.data.length
  | some e => if e < s.spos then s.src.data.length else e

/-- The bits a read channel can return before a pull does not give a byte: those left in `BC.BUF`, then those of the bytes
up to the end of the source or the position where a pull fails (R52, R111). -/
def State.readable (s : State) : List Bool :=
  (byteBits s.buf).drop (8 - s.cnt.val) ++
    (if s.src.present then streamBits ((s.src.data.take (readLimit s)).drop s.spos) else [])

/-- The pull after those bits fails; otherwise it meets the end (R52). -/
def readsIntoError (s : State) : Bool :=
  !s.src.present || (match s.src.errAt with
    | none   => false
    | some e => decide (s.spos ≤ e ∧ e ≤ s.src.data.length))

/-- The state with the channel opened for reading at byte 0, as `OPENR` leaves it (R116): where `DECOMPRESS` reads from. -/
def State.opened (s : State) : State := (s.withChan .read 0#8 ⟨0, by decide⟩).withSpos 0

/-- The next pull fails (R52). -/
def pullFails (s : State) : Bool := !s.src.present || decide (s.src.errAt = some s.spos)

/-- The next push fails (R54). -/
def pushFails (s : State) : Bool := !s.snk.present || decide (s.snk.cap = some s.snk.data.length)

/-- None of the next `n` pushes fails (R54). -/
def hasRoom (n : Nat) (s : State) : Bool :=
  decide (n = 0) || (s.snk.present && (match s.snk.cap with
    | none => true
    | some c => decide (s.snk.data.length + n ≤ c) || decide (c < s.snk.data.length)))

/-! ## The spec's tables -/

/-- The legal command words in the terms of R81 to R83: an assigned opcode in `cmd[15:8]` and the operand it takes in
`cmd[7:0]`. -/
def LegalForm (w : Word) : Prop :=
  (w.toNat / 256 ∈ [0x01, 0x02, 0x03, 0x04, 0x07, 0x10, 0x11, 0x12, 0x13, 0x14, 0x19, 0x1A, 0x20, 0x21] ∧ w.toNat % 256 = 0) ∨
  (w.toNat / 256 = 0x05 ∧ w.toNat % 256 ≤ 1) ∨ w.toNat / 256 = 0x06 ∨ w.toNat / 256 = 0x18

/-- The direction table of R124: the failure a command ends with for a value of `BC.DIR` before anything else is tested.
A header token is no command and has no row. -/
def dirFailure : Instr → Dir → Option Failure
  | .openr, .closed | .openw, .closed => none
  | .openr, .read | .openr, .write | .openw, .read | .openw, .write => some .notReady
  | .rdbit, .read | .rdbyte, .read | .destree, .read | .getsym, .read => none
  | .rdbit, .closed | .rdbyte, .closed | .destree, .closed | .getsym, .closed => some .invalidDirection
  | .rdbit, .write | .rdbyte, .write | .destree, .write | .getsym, .write => some .invalidDirection
  | .wrbit _, .write | .wrbyte _, .write | .sertree, .write | .putsym _, .write | .putterm, .write => none
  | .wrbit _, .closed | .wrbyte _, .closed | .sertree, .closed | .putsym _, .closed | .putterm, .closed =>
    some .invalidDirection
  | .wrbit _, .read | .wrbyte _, .read | .sertree, .read | .putsym _, .read | .putterm, .read => some .invalidDirection
  | .close, .closed | .close, .read | .close, .write => none
  | .freq, .closed | .freq, .write => none
  | .freq, .read => some .notReady
  | .build, .closed | .build, .read | .build, .write | .codes, .closed | .codes, .read | .codes, .write => none
  | .compress, .closed | .decompress, .closed => none
  | .compress, .read | .compress, .write | .decompress, .read | .decompress, .write => some .notReady
  | .int, .closed | .int, .read | .int, .write => none
  | .leafb _, .closed | .leafb _, .read | .leafb _, .write => none
  | .leaft, .closed | .leaft, .read | .leaft, .write => none

/-- The table of R216: the failures a command can end with, `IllegalCommand` left out. -/
def canFail : Instr → List Failure
  | .openr      => [.ioError, .notReady]
  | .openw      => [.ioError, .notReady]
  | .rdbit      => [.ioError, .invalidDirection, .endOfStream]
  | .rdbyte     => [.ioError, .invalidDirection, .endOfStream]
  | .wrbit _    => [.ioError, .invalidDirection]
  | .wrbyte _   => [.ioError, .invalidDirection]
  | .close      => [.ioError]
  | .freq       => [.ioError, .notReady]
  | .build      => [.notReady]
  | .codes      => [.notReady]
  | .sertree    => [.ioError, .invalidDirection, .notReady]
  | .destree    => [.ioError, .invalidDirection, .corruptHeader]
  | .putsym _   => [.ioError, .invalidDirection, .notReady]
  | .putterm    => [.ioError, .invalidDirection, .notReady]
  | .getsym     => [.ioError, .invalidDirection, .truncatedStream, .notReady]
  | .compress   => [.ioError, .notReady]
  | .decompress => [.ioError, .corruptHeader, .truncatedStream, .notReady]
  | .int        => [.corruptHeader]
  | .leafb _    => [.corruptHeader]
  | .leaft      => [.corruptHeader]

/-! ## Frames -/

/-- `BC` is as it was. -/
def KeepsChannel (s t : State) : Prop := t.dir = s.dir ∧ t.buf = s.buf ∧ t.cnt = s.cnt

/-- `FT_V`, `TREE_V` and `CT_V` are as they were. -/
def KeepsFlags (s t : State) : Prop := t.ftV = s.ftV ∧ t.treeV = s.treeV ∧ t.ctV = s.ctV

/-- `NODE`, `NCNT` and `ROOT` are as they were. -/
def KeepsTree (s t : State) : Prop := t.node = s.node ∧ t.ncnt = s.ncnt ∧ t.root = s.root

/-- `FT`, `NODE`, `NCNT`, `ROOT` and `CT` are as they were. -/
def KeepsTables (s t : State) : Prop := t.ft = s.ft ∧ KeepsTree s t ∧ t.ct = s.ct

/-- What no command writes is as it was: `CW`, the source, what the host has yet to present, and the model's own parse. -/
def KeepsHost (s t : State) : Prop := t.cfg = s.cfg ∧ t.src = s.src ∧ t.inbox = s.inbox ∧ t.hdr = s.hdr

/-- The command ended `OK` with result `r` and answered it (R222). -/
def EndsOk (r : Sym) (s t : State) : Prop :=
  t.status = .ok ∧ t.res = r ∧ t.faults = s.faults ∧ t.resp = s.resp ++ [respWord .ok r]

/-- The command ended with failure `f`, recorded it and answered it (R217, R222). -/
def EndsFailed (f : Failure) (s t : State) : Prop :=
  t.status = .failed f ∧ t.res.val = 0 ∧
  (∀ i, t.faults.getLsbD i = (s.faults.getLsbD i || decide (i = f.code.toNat))) ∧
  t.resp = s.resp ++ [respWord (.failed f) ⟨0, by decide⟩]

/-- The command ended with failure `f` and changed nothing else. -/
def OnlyFails (f : Failure) (s t : State) : Prop :=
  EndsFailed f s t ∧ KeepsChannel s t ∧ KeepsFlags s t ∧ KeepsTables s t ∧ KeepsHost s t ∧ t.snk = s.snk ∧ t.spos = s.spos

/-- Everything but `BC.BUF`, `BC.CNT`, `SPOS` and the end of the command is as it was: what a reading command may leave. -/
def KeepsAllButReading (s t : State) : Prop :=
  t.dir = s.dir ∧ KeepsFlags s t ∧ KeepsTables s t ∧ KeepsHost s t ∧ t.snk = s.snk

/-- Everything but `BC.BUF`, `BC.CNT`, the sink's bytes and the end of the command is as it was: what a writing command
may leave. -/
def KeepsAllButWriting (s t : State) : Prop :=
  t.dir = s.dir ∧ KeepsFlags s t ∧ KeepsTables s t ∧ KeepsHost s t ∧ t.spos = s.spos ∧
  t.snk.present = s.snk.present ∧ t.snk.cap = s.snk.cap

/-- Bits were written to an open write channel, all of them: none is lost, at most seven wait in the buffer (R66). -/
def Appends (l : List Bool) (s t : State) : Prop :=
  t.written = s.written ++ l ∧ t.cnt.val = (s.cnt.val + l.length) % 8 ∧
  t.snk.data.length = s.snk.data.length + (s.cnt.val + l.length) / 8 ∧ KeepsAllButWriting s t

/-- A push failed while bits were written: the channel holds no bits, and the sink holds the whole bytes pushed before
the failure and no others (R113, R166, R185). -/
def LosesAByte (l : List Bool) (s t : State) : Prop :=
  t.buf = 0#8 ∧ t.cnt.val = 0 ∧ s.snk.data <+: t.snk.data ∧ streamBits t.snk.data <+: s.written ++ l ∧
  pushFails t = true ∧ KeepsAllButWriting s t

/-- The value of a list of bits, the first one the most significant (R112). -/
def bitsVal (l : List Bool) : Nat := l.foldl (fun n b => 2 * n + b.toNat) 0

end Sys2Proof.Machine
end

