-- ==== Sys2Proof/Certificates/Slice0/Obligations.lean ====
section
/-! DEFINITION. The statements for the provers: what the rules of the spec say of the machine, one definition each. -/

open Sys2Proof Sys2Proof.Machine

/-! ## Encoding -/

/-- Every instruction, every operand value: the decoder gives back what the encoder was given; and an instruction has one
encoding: whatever decodes to it is what the encoder writes (R80 to R83, R86, R87). -/
def Obligations.DecodeAndEncodeAgree : Prop :=
  (∀ i : Instr, decode (encode i) = .ok i) ∧
  (∀ (e : Encoding) (i : Instr), decode e = .ok i → encode i = e)

/-- R83: the decoder accepts exactly the words of R81 and R82, and a word it refuses raises `IllegalCommand` before
anything else is examined, in every state, changing only `STATUS`, `FAULTS` and `RES`. -/
def Obligations.IllegalWordsRaiseIllegalCommand : Prop :=
  (∀ w : Word, (∃ i, decodeWord w = .ok i) ↔ LegalForm w) ∧
  (∀ (s : State) (w : Word) (l : List HostAct), s.hdr = none → s.inbox = .command w :: l → ¬ LegalForm w →
    ∃ t, step s = .next t ∧ OnlyFails .illegalCommand (s.withInbox l) t) ∧
  ¬ LegalForm 0x0000#16 ∧ ¬ LegalForm 0xFFFF#16

/-- A few words and tokens, written out from the opcode table's patterns, decode to their instructions. -/
def Obligations.SampleEncodingsDecode : Prop :=
  decodeWord 0b0000000100000000#16 = .ok .openr ∧
  decodeWord 0b0000010100000001#16 = .ok (.wrbit true) ∧
  decodeWord 0b0000011010000001#16 = .ok (.wrbyte 0x81) ∧
  decodeWord 0b0001000000000000#16 = .ok .freq ∧
  decodeWord 0b0001000100000000#16 = .ok .build ∧
  decodeWord 0b0001001000000000#16 = .ok .codes ∧
  decodeWord 0b0001010000000000#16 = .ok .destree ∧
  decodeWord 0b0001100001100010#16 = .ok (.putsym 0x62) ∧
  decodeWord 0b0010000100000000#16 = .ok .decompress ∧
  decode (.bits [true, false, false, true, true, false, false, false, false, true]) = .ok (.leafb 0x61)

/-- A header token's length follows from its first bits: whatever follows it in the stream, it is read as itself and
exactly its bits are taken (R86, R91). -/
def Obligations.HeaderTokensDelimitThemselves : Prop :=
  ∀ (t : Token) (l : List Bool), decodeToken (t.bits ++ l) = .ok (t, l)

/-- R12: bit `k` of a byte stream is bit `7 - (k mod 8)` of byte `k div 8`. -/
def Obligations.StreamBitsAreMostSignificantFirst : Prop :=
  ∀ (l : List Byte) (k : Nat), (streamBits l)[k]? = streamBit? l k

/-- The padding of R63: bits packed into bytes read back as themselves followed by fewer than eight zero bits, in
`ceil(n / 8)` bytes. -/
def Obligations.PackingPadsWithZeros : Prop :=
  ∀ l : List Bool, ∃ n, n < 8 ∧ streamBits (pack l) = l ++ List.replicate n false ∧ (pack l).length = (l.length + 7) / 8

/-- R85: every command ends with one response word, `STATUS` in 15:12, zeros in 11:9, `RES` in 8:0. -/
def Obligations.EveryCommandAnswersStatusAndResult : Prop :=
  (∀ (i : Instr) (s t : State), i.isCommand = true → exec i s = .next t →
    t.resp = s.resp ++ [respWord t.status t.res]) ∧
  (∀ (st : Status) (r : Sym), (respWord st r).extractLsb' 12 4 = st.code ∧ (respWord st r).extractLsb' 9 3 = 0#3 ∧
    ((respWord st r).extractLsb' 0 9).toNat = r.val) ∧
  respWord .ok (bitSym true) = 0x0001#16 ∧ respWord .ok (byteSym 0x61#8) = 0x0061#16 ∧
  respWord .ok TERM = 0x0100#16 ∧ respWord (.failed .endOfStream) (bitSym false) = 0x3000#16

/-! ## The step and the host -/

/-- A command word the host presents is decoded and run; and with nothing presented CORE waits (R7, R71, R252; that
waiting leaves the state as it is, is the model's reading: log entry 5). -/
def Obligations.StepRunsThePresentedCommand : Prop :=
  (∀ (s : State) (w : Word) (l : List HostAct) (i : Instr),
    s.hdr = none → s.inbox = .command w :: l → decodeWord w = .ok i → step s = exec i (s.withInbox l)) ∧
  (∀ s : State, s.hdr = none → s.inbox = [] → step s = .next s)

/-- Inside a header run token by token, the token whose bits stand at the read position is the one that runs, from the
state in which exactly its bits have been taken (R86, R91, R171); where the bits end inside a token, the header ends as
`DESTREE` ends there (R173). The token-by-token run is the model's: log entry 6. -/
def Obligations.StepRunsTheTokenAtTheReadPosition : Prop :=
  ∀ (s : State) (p : HeaderParse), s.hdr = some p → s.dir = .read →
    (∀ (t : Token) (l : List Bool), s.readable = t.bits ++ l →
      ∃ u, u = { s with buf := u.buf, cnt := u.cnt, spos := u.spos } ∧ u.readable = l ∧ s.unread = t.bits ++ u.unread ∧
        step s = exec t.instr u) ∧
    (s.spos ≤ s.src.data.length → decodeToken s.readable = .error .bitsEnd →
      ∃ t, step s = .next t ∧ EndsFailed (if readsIntoError s then .ioError else .corruptHeader) s t ∧ t.hdr = none ∧
        t.readable = [] ∧ t.cnt.val = 0 ∧ t.dir = .read ∧ KeepsFlags s t ∧ KeepsTables s t ∧ t.src = s.src ∧ t.snk = s.snk)

/-- R44, R251: reset writes every register of R22 and touches neither the source nor the sink; and `State.reset` holds the
same register values. -/
def Obligations.ResetWritesEveryRegister : Prop :=
  ∀ (s : State) (l : List HostAct), s.hdr = none → s.inbox = .reset :: l →
    ∃ t, step s = .next t ∧ t.src = s.src ∧ t.snk = s.snk ∧
      ∀ u, u = t ∨ u = State.reset →
        u.dir = .closed ∧ u.buf = 0#8 ∧ u.cnt.val = 0 ∧ u.spos = 0 ∧ u.status = .ok ∧ u.faults = 0#8 ∧ u.res.val = 0 ∧
        u.ftV = false ∧ u.treeV = false ∧ u.ctV = false ∧ u.root = none ∧ Handle.bits u.root = 0x3FF#10 ∧ u.ncnt.val = 0

/-- The host's moves between commands (R40, R42, R43): a source shorter than `2^CW` bytes with its error position inside it
is bound, any other is refused (R134, U7; that it is tested at the bind is log entry 10), a sink is bound as it is, and
nothing else of the state changes; reset leaves the tables without values (R45; log entry 8) and keeps the model's record
of what the host presents and is answered (log entry 11). -/
def Obligations.HostMovesBetweenCommands : Prop :=
  (∀ (s : State) (r : Source) (l : List HostAct), s.hdr = none → s.inbox = .bindSource r :: l →
    ((r.data.length < 2 ^ s.cfg.cw ∧ ∀ e, r.errAt = some e → e ≤ r.data.length) →
      step s = .next { s with src := r, inbox := l }) ∧
    (¬ (r.data.length < 2 ^ s.cfg.cw ∧ ∀ e, r.errAt = some e → e ≤ r.data.length) →
      step s = .refused .sourceOutsideSpec)) ∧
  (∀ (s : State) (k : Sink) (l : List HostAct), s.hdr = none → s.inbox = .bindSink k :: l →
    step s = .next { s with snk := k, inbox := l }) ∧
  (∀ (s : State) (l : List HostAct), s.hdr = none → s.inbox = .reset :: l →
    ∃ t, step s = .next t ∧ t.cfg = s.cfg ∧ t.inbox = l ∧ t.resp = s.resp ∧ t.hdr = none ∧
      (∀ i, (h : i < 256) → t.ft[i] = none) ∧ (∀ i, (h : i < 513) → t.node[i] = none) ∧
      (∀ i, (h : i < 257) → t.ct[i] = none))

/-! ## Failures -/

/-- R28: `STATUS` and `FAULTS` record how a command ended; `FAULTS` is sticky, bit 0 never set; `RES` is the bit, the byte or
the symbol number of the three commands that return one, and 0 after every other command and every failure. -/
def Obligations.StatusFaultsAndResultRecordTheEnd : Prop :=
  ∀ (i : Instr) (s t : State), i.isCommand = true → exec i s = .next t →
    (t.status = .ok → t.faults = s.faults) ∧
    (∀ f, t.status = .failed f → t.res.val = 0 ∧
      ∀ k, t.faults.getLsbD k = (s.faults.getLsbD k || decide (k = f.code.toNat))) ∧
    t.faults.getLsbD 0 = s.faults.getLsbD 0 ∧
    (i ≠ .rdbit → i ≠ .rdbyte → i ≠ .getsym → t.res.val = 0) ∧
    (i = .rdbit → t.res.val ≤ 1 ∧ (t.status = .ok → t.res.val = bitsVal (s.unread.take 1))) ∧
    (i = .rdbyte → t.res.val ≤ 255 ∧ (t.status = .ok → t.res.val = bitsVal (s.unread.take 8))) ∧
    (∀ tree hs, i = .getsym → t.status = .ok → s.tree? = some (tree, hs) → tree.leaves.Nodup →
      t.res.val ≤ 256 ∧ ∃ c, tree.code? t.res = some c ∧ c <+: s.unread)

/-- R124: what each command gives for each value of `BC.DIR` before anything else is tested; where it proceeds, it does
not end with `InvalidDirection`; and `CLOSE` of a closed channel does nothing. -/
def Obligations.DirectionIsTestedFirst : Prop :=
  (∀ (i : Instr) (s : State) (f : Failure), dirFailure i s.dir = some f → ∃ t, exec i s = .next t ∧ OnlyFails f s t) ∧
  (∀ (i : Instr) (s t : State), i.isCommand = true → dirFailure i s.dir = none → exec i s = .next t →
    t.status ≠ .failed .invalidDirection) ∧
  (∀ s : State, s.dir = .closed → ChannelOk s → ∃ t, exec .close s = .next t ∧ EndsOk 0 s t ∧ KeepsChannel s t ∧
    KeepsFlags s t ∧ KeepsTables s t ∧ KeepsHost s t ∧ t.snk = s.snk ∧ t.spos = s.spos)

/-- The failures each command can end with are those of the table of R216. -/
def Obligations.CommandsFailOnlyAsTheTableSays : Prop :=
  ∀ (i : Instr) (s t : State) (f : Failure), i.isCommand = true → exec i s = .next t → t.status = .failed f → f ∈ canFail i

/-- R219: each cause of `NotReady` ends the command with it; and a command that raises `NotReady`, for whatever cause, has
changed nothing but `STATUS`, `FAULTS` and `RES` (for `COMPRESS`: it does not arise inside its steps). -/
def Obligations.NotReadyChangesNothingElse : Prop :=
  (∀ (i : Instr) (s : State),
    ((i = .build ∧ s.ftV = false) ∨
     (i = .codes ∧ s.treeV = false) ∨
     (i = .sertree ∧ s.dir = .write ∧ s.treeV = false) ∨
     (i = .getsym ∧ s.dir = .read ∧ s.treeV = false) ∨
     (i = .putterm ∧ s.dir = .write ∧ s.ctV = false) ∨
     (∃ v, i = .putsym v ∧ s.dir = .write ∧
       (s.ctV = false ∨ ∃ e, s.ct[v.toNat]? = some (some e) ∧ e.v = false)) ∨
     ((i = .openr ∨ i = .openw ∨ i = .compress ∨ i = .decompress) ∧ s.dir ≠ .closed) ∨
     (i = .freq ∧ s.dir = .read)) →
    ∃ t, exec i s = .next t ∧ OnlyFails .notReady s t) ∧
  (∀ (i : Instr) (s t : State), i.isCommand = true → exec i s = .next t → t.status = .failed .notReady →
    OnlyFails .notReady s t)

/-- R220: a command that raises `InvalidDirection` has changed nothing but `STATUS`, `FAULTS` and `RES`; it is recorded in
`FAULTS[2]`; and CORE goes on. -/
def Obligations.InvalidDirectionChangesNothingElse : Prop :=
  ∀ (i : Instr) (s t : State), i.isCommand = true → exec i s = .next t → t.status = .failed .invalidDirection →
    OnlyFails .invalidDirection s t ∧ t.faults.getLsbD 2 = true ∧ t.hdr = s.hdr

/-! ## BitChannel -/

/-- R116: `OPENR`. -/
def Obligations.OpenrOpensAtByteZero : Prop :=
  ∀ s : State,
    (s.dir ≠ .closed → ∃ t, exec .openr s = .next t ∧ OnlyFails .notReady s t) ∧
    (s.dir = .closed → s.src.present = false → ∃ t, exec .openr s = .next t ∧ OnlyFails .ioError s t) ∧
    (s.dir = .closed → s.src.present = true → ∃ t, exec .openr s = .next t ∧ EndsOk 0 s t ∧
      t.dir = .read ∧ t.buf = 0#8 ∧ t.cnt.val = 0 ∧ t.spos = 0 ∧
      KeepsFlags s t ∧ KeepsTables s t ∧ KeepsHost s t ∧ t.snk = s.snk)

/-- R117: `OPENW`; the sink keeps what it holds. -/
def Obligations.OpenwKeepsTheSink : Prop :=
  ∀ s : State,
    (s.dir ≠ .closed → ∃ t, exec .openw s = .next t ∧ OnlyFails .notReady s t) ∧
    (s.dir = .closed → s.snk.present = false → ∃ t, exec .openw s = .next t ∧ OnlyFails .ioError s t) ∧
    (s.dir = .closed → s.snk.present = true → ∃ t, exec .openw s = .next t ∧ EndsOk 0 s t ∧
      t.dir = .write ∧ t.buf = 0#8 ∧ t.cnt.val = 0 ∧ t.spos = s.spos ∧
      KeepsFlags s t ∧ KeepsTables s t ∧ KeepsHost s t ∧ t.snk = s.snk)

/-- R118 (with R110 and R111): `RDBIT` returns the next unread bit of the stream, and tests direction, pull and end in this
order. -/
def Obligations.RdbitReturnsTheNextBit : Prop :=
  ∀ s : State,
    (s.dir ≠ .read → ∃ t, exec .rdbit s = .next t ∧ OnlyFails .invalidDirection s t) ∧
    (s.dir = .read → s.cnt.val = 0 → pullFails s = true → ∃ t, exec .rdbit s = .next t ∧ OnlyFails .ioError s t) ∧
    (s.dir = .read → s.cnt.val = 0 → pullFails s = false → s.spos = s.src.data.length →
      ∃ t, exec .rdbit s = .next t ∧ OnlyFails .endOfStream s t) ∧
    (s.dir = .read → (0 < s.cnt.val ∨ (pullFails s = false ∧ s.spos < s.src.data.length)) →
      ∃ t b, exec .rdbit s = .next t ∧ EndsOk t.res s t ∧ t.res.val = b.toNat ∧ s.unread = b :: t.unread ∧
        (0 < s.cnt.val → t.cnt.val = s.cnt.val - 1 ∧ t.buf = s.buf ∧ t.spos = s.spos) ∧
        (s.cnt.val = 0 → t.cnt.val = 7 ∧ s.src.data[s.spos]? = some t.buf ∧ t.spos = s.spos + 1) ∧
        KeepsAllButReading s t)

/-- R119 (with R112): `RDBYTE` returns the next eight bits, the first the most significant; a failure after some good bits
leaves those consumed. -/
def Obligations.RdbyteAssemblesEightBits : Prop :=
  ∀ s : State,
    (s.dir ≠ .read → ∃ t, exec .rdbyte s = .next t ∧ OnlyFails .invalidDirection s t) ∧
    (s.dir = .read → s.cnt.val ≤ 7 → pullFails s = true →
      ∃ t, exec .rdbyte s = .next t ∧ EndsFailed .ioError s t ∧ t.cnt.val = 0 ∧ t.buf = s.buf ∧ t.spos = s.spos ∧
        KeepsAllButReading s t) ∧
    (s.dir = .read → s.cnt.val ≤ 7 → pullFails s = false → s.spos = s.src.data.length →
      ∃ t, exec .rdbyte s = .next t ∧ EndsFailed .endOfStream s t ∧ t.cnt.val = 0 ∧ t.buf = s.buf ∧ t.spos = s.spos ∧
        KeepsAllButReading s t) ∧
    (s.dir = .read → s.cnt.val ≤ 7 → pullFails s = false → s.spos < s.src.data.length →
      ∃ t, exec .rdbyte s = .next t ∧ EndsOk t.res s t ∧ t.res.val = bitsVal (s.unread.take 8) ∧
        t.unread = s.unread.drop 8 ∧ t.cnt = s.cnt ∧ s.src.data[s.spos]? = some t.buf ∧ t.spos = s.spos + 1 ∧
        KeepsAllButReading s t)

/-- After the host has bound a shorter source under an open read channel, a position past the end holds no byte: the pull
answers `End`, as at the end (R52 and R111 say it of the end only; past it, it is the model's choice: log entry 7). -/
def Obligations.PastTheEndReadsAsTheEnd : Prop :=
  ∀ s : State, s.dir = .read → s.src.data.length < s.spos → pullFails s = false →
    (s.cnt.val = 0 → ∃ t, exec .rdbit s = .next t ∧ OnlyFails .endOfStream s t) ∧
    (s.cnt.val ≤ 7 → ∃ t, exec .rdbyte s = .next t ∧ EndsFailed .endOfStream s t ∧ t.cnt.val = 0 ∧ t.buf = s.buf ∧
      t.spos = s.spos ∧ KeepsAllButReading s t) ∧
    (∀ tree hs, s.treeV = true → s.tree? = some (tree, hs) → tree.leaves.Nodup →
      (∀ x c, tree.code? x = some c → ¬ c <+: s.readable) →
      ∃ t, exec .getsym s = .next t ∧ EndsFailed .truncatedStream s t ∧ t.spos = s.spos ∧ t.cnt.val = 0 ∧
        KeepsAllButReading s t)

/-- R120 (with R113): `WRBIT` puts its bit after those written; the eighth bit pushes the byte, and a push that fails loses
it. -/
def Obligations.WrbitAppendsOneBit : Prop :=
  ∀ (s : State) (b : Bool),
    (s.dir ≠ .write → ∃ t, exec (.wrbit b) s = .next t ∧ OnlyFails .invalidDirection s t) ∧
    (s.dir = .write → s.cnt.val < 7 → ∃ t, exec (.wrbit b) s = .next t ∧ EndsOk 0 s t ∧
      (∀ i, i < 8 → t.buf.getLsbD i = if i = 7 - s.cnt.val then b else s.buf.getLsbD i) ∧
      t.snk = s.snk ∧ Appends [b] s t) ∧
    (s.dir = .write → s.cnt.val = 7 → pushFails s = false → ∃ t v, exec (.wrbit b) s = .next t ∧ EndsOk 0 s t ∧
      (∀ i, i < 8 → v.getLsbD i = if i = 0 then b else s.buf.getLsbD i) ∧
      t.snk.data = s.snk.data ++ [v] ∧ t.buf = 0#8 ∧ Appends [b] s t) ∧
    (s.dir = .write → s.cnt.val = 7 → pushFails s = true → ∃ t, exec (.wrbit b) s = .next t ∧ EndsFailed .ioError s t ∧
      t.snk = s.snk ∧ LosesAByte [b] s t)

/-- R121 (with R114): `WRBYTE` pushes exactly one byte, the buffered bits followed by the high bits of `v`, and the low
bits of `v` wait left-aligned. -/
def Obligations.WrbyteAppendsEightBits : Prop :=
  ∀ (s : State) (v : Byte),
    (s.dir ≠ .write → ∃ t, exec (.wrbyte v) s = .next t ∧ OnlyFails .invalidDirection s t) ∧
    (s.dir = .write → ChannelOk s → pushFails s = false → ∃ t, exec (.wrbyte v) s = .next t ∧ EndsOk 0 s t ∧
      t.snk.data = s.snk.data ++ [s.buf ||| (v >>> s.cnt.val)] ∧ t.buf = v <<< (8 - s.cnt.val) ∧ t.cnt = s.cnt ∧
      Appends (byteBits v) s t) ∧
    (s.dir = .write → ChannelOk s → pushFails s = true → ∃ t, exec (.wrbyte v) s = .next t ∧ EndsFailed .ioError s t ∧
      t.snk = s.snk ∧ LosesAByte (byteBits v) s t)

/-- R122 (with R115): `CLOSE` pushes the partial byte of a write channel and closes the channel, even when that push
fails. -/
def Obligations.CloseFlushesAndAlwaysCloses : Prop :=
  ∀ s : State, ∃ t, exec .close s = .next t ∧
    t.dir = .closed ∧ t.buf = 0#8 ∧ t.cnt.val = 0 ∧ t.spos = s.spos ∧ KeepsFlags s t ∧ KeepsTables s t ∧ KeepsHost s t ∧
    (s.dir = .write → 0 < s.cnt.val → pushFails s = false →
      EndsOk 0 s t ∧ t.snk = { s.snk with data := s.snk.data ++ [s.buf] }) ∧
    (s.dir = .write → 0 < s.cnt.val → pushFails s = true → EndsFailed .ioError s t ∧ t.snk = s.snk) ∧
    ((s.dir ≠ .write ∨ s.cnt.val = 0) → EndsOk 0 s t ∧ t.snk = s.snk)

/-- R123: the inverse law, which the spec derives from R111, R113 and R115. Bits written and read back are the same bits, for
any number of them; reading on gives the zero padding bits to the byte boundary and then `EndOfStream`. -/
def Obligations.BitsWrittenAreReadBack : Prop :=
  ∀ (s : State) (l : List Bool), s.dir = .closed → s.snk = { present := true, data := [], cap := none } →
    ∃ t, issue (.openw :: (l.map .wrbit ++ [.close])) s = .next t ∧ t.faults = s.faults ∧
      t.snk.data.length = (l.length + 7) / 8 ∧
      ∀ u : State, u.dir = .closed → u.src = { present := true, data := t.snk.data, errAt := none } →
        (∃ v, issue (.openr :: List.replicate l.length .rdbit) u = .next v ∧ v.faults = u.faults ∧
          v.resp = u.resp ++ respWord .ok 0 :: l.map (fun b => respWord .ok (bitSym b))) ∧
        ∃ v, issue (.openr :: List.replicate (8 * t.snk.data.length + 1) .rdbit) u = .next v ∧
          v.resp = u.resp ++ respWord .ok 0 ::
            ((l ++ List.replicate (8 * t.snk.data.length - l.length) false).map (fun b => respWord .ok (bitSym b)) ++
              [respWord (.failed .endOfStream) 0])

/-! ## FrequencyTable -/

/-- R131: `FREQ` counts every byte of the source; it stops at the error position with the flags cleared. -/
def Obligations.FreqCountsEveryByte : Prop :=
  ∀ s : State,
    (s.dir = .read → ∃ t, exec .freq s = .next t ∧ OnlyFails .notReady s t) ∧
    (s.dir ≠ .read → s.src.present = false → ∃ t, exec .freq s = .next t ∧ EndsFailed .ioError s t ∧
      t.ftV = false ∧ t.treeV = false ∧ t.ctV = false ∧ t.spos = s.spos ∧
      KeepsTables s t ∧ KeepsChannel s t ∧ KeepsHost s t ∧ t.snk = s.snk) ∧
    (∀ e, s.dir ≠ .read → s.src.present = true → s.src.errAt = some e → e ≤ s.src.data.length →
      ∃ t, exec .freq s = .next t ∧ EndsFailed .ioError s t ∧
        t.ftV = false ∧ t.treeV = false ∧ t.ctV = false ∧ t.spos = e ∧
        KeepsTree s t ∧ t.ct = s.ct ∧ KeepsChannel s t ∧ KeepsHost s t ∧ t.snk = s.snk) ∧
    (s.dir ≠ .read → s.src.present = true → (∀ e, s.src.errAt = some e → s.src.data.length < e) →
      ∃ t, exec .freq s = .next t ∧ EndsOk 0 s t ∧ t.ftV = true ∧ t.treeV = false ∧ t.ctV = false ∧
        (∀ b : Byte, t.ft[b.toNat]? = some (some (s.src.data.count b))) ∧ t.spos = s.src.data.length ∧
        KeepsTree s t ∧ t.ct = s.ct ∧ KeepsChannel s t ∧ KeepsHost s t ∧ t.snk = s.snk)

/-- R130: the frequency table is a function of the multiset of bytes in the source and of nothing else. -/
def Obligations.FreqIsOrderIndependent : Prop :=
  ∀ s s' t t' : State, exec .freq s = .next t → exec .freq s' = .next t' → t.status = .ok → t'.status = .ok →
    s.src.data.Perm s'.src.data → t.ft = t'.ft

/-! ## TreeBuilder -/

/-- R143: `popmin` removes the least entry, by weight and then by handle. -/
def Obligations.PopMinRemovesTheLeast : Prop :=
  ∀ q : List QEntry, (popMin q = none ↔ q = []) ∧
    ∀ m r, popMin q = some (m, r) → q.Perm (m :: r) ∧ ∀ x ∈ q, m.w < x.w ∨ (m.w = x.w ∧ m.h.val ≤ x.h.val)

/-- `BUILD` (R140, R141, R144, R31): from a valid frequency table it makes a valid tree whose leaves are the bytes present
(the byte 0x00 when none is) and the terminator, in `2n - 1` nodes with the last one the root, a leaf weighing its count
and an Internal node the sum of its children. The `n` leaves come first, in ascending order of symbol (R142), and every
Internal node is the merge of the two least nodes not yet merged, the least on the left (R143, R144): with this the arena
is a function of the table (R145). -/
def Obligations.BuildMakesTheTreeOfTheTable : Prop :=
  ∀ s : State, s.ftV = true → FtOk s →
    ∃ t tree, exec .build s = .next t ∧ EndsOk 0 s t ∧ t.ftV = true ∧ t.treeV = true ∧ t.ctV = false ∧
      HoldsTree t tree ∧
      (∀ x : Sym, x ∈ tree.leaves ↔ x = TERM ∨ (∃ b c, x = byteSym b ∧ s.ft[b.toNat]? = some (some c) ∧ 0 < c) ∨
        (x = DUMMY ∧ ∀ b : Byte, s.ft[b.toNat]? = some (some 0))) ∧
      t.ncnt.val = 2 * tree.leaves.length - 1 ∧ t.root.map (·.val) = some (2 * tree.leaves.length - 2) ∧
      (∀ (h : NodeIx) (e : Node), h.val < t.ncnt.val → t.node[h.val]? = some (some e) → e.leaf = true →
        (e.sym = TERM → e.w = 0) ∧ ∀ b : Byte, e.sym = byteSym b → s.ft[b.toNat]? = some (some e.w)) ∧
      (∀ (h : NodeIx) (e : Node), h.val < t.ncnt.val → t.node[h.val]? = some (some e) →
        (e.leaf = true ↔ h.val < tree.leaves.length) ∧ (e.leaf = true → e.left = none ∧ e.right = none) ∧
        (e.leaf = false → e.sym.val = 0)) ∧
      (∀ (h k : NodeIx) (e f : Node), h.val < k.val → k.val < tree.leaves.length → t.node[h.val]? = some (some e) →
        t.node[k.val]? = some (some f) → e.sym.val < f.sym.val) ∧
      (∀ (k : NodeIx) (e : Node), k.val < t.ncnt.val → t.node[k.val]? = some (some e) → e.leaf = false →
        MergesTheLeast t.node k e) ∧
      t.ft = s.ft ∧ t.ct = s.ct ∧ KeepsChannel s t ∧ KeepsHost s t ∧ t.snk = s.snk ∧ t.spos = s.spos

/-- R146: with only the terminator present the tree is `Node(Leaf(0x00), Leaf(TERM))`, the root handle 2, the terminator's
code `1`. -/
def Obligations.BuildOfTheEmptyInput : Prop :=
  ∀ s : State, s.ftV = true → s.ft = Vector.replicate 256 (some 0) →
    ∃ t, exec .build s = .next t ∧ EndsOk 0 s t ∧ t.treeV = true ∧ t.ncnt.val = 3 ∧ t.root.map (·.val) = some 2 ∧
      (t.tree?.map (·.1)) = some (.node (.leaf DUMMY) (.leaf TERM)) ∧
      t.node[0]? = some (some (leafNode DUMMY 0)) ∧ t.node[1]? = some (some (leafNode TERM 0)) ∧
      Tree.code? (.node (.leaf DUMMY) (.leaf TERM)) TERM = some [true] ∧
      Tree.code? (.node (.leaf DUMMY) (.leaf TERM)) (byteSym 0#8) = some [false]

/-- R149, which the spec derives from R141, R143 and R144: with one byte value present the tree is `Node(Leaf(TERM), Leaf(x))`, the root handle 2, the byte's code `1`, the
terminator's `0`. -/
def Obligations.BuildOfOneByteValue : Prop :=
  ∀ (s : State) (x : Byte) (k : Nat), s.ftV = true → 0 < k →
    (∀ b : Byte, s.ft[b.toNat]? = some (some (if b = x then k else 0))) →
    ∃ t, exec .build s = .next t ∧ EndsOk 0 s t ∧ t.treeV = true ∧ t.ncnt.val = 3 ∧ t.root.map (·.val) = some 2 ∧
      (t.tree?.map (·.1)) = some (.node (.leaf TERM) (.leaf (byteSym x))) ∧
      t.node[0]? = some (some (leafNode (byteSym x) k)) ∧ t.node[1]? = some (some (leafNode TERM 0)) ∧
      Tree.code? (.node (.leaf TERM) (.leaf (byteSym x))) (byteSym x) = some [true] ∧
      Tree.code? (.node (.leaf TERM) (.leaf (byteSym x))) TERM = some [false]

/-- R148: when a byte is present, the first merge takes the terminator as its left child and the present byte of least
count, the smallest value among several, as its right; with `n` leaves the terminator is handle `n - 1` and the merge
handle `n`. -/
def Obligations.TerminatorIsMergedFirst : Prop :=
  ∀ (s t : State), s.ftV = true → FtOk s → (∃ b c : Nat, s.ft[b]? = some (some c) ∧ 0 < c) → exec .build s = .next t →
    ∃ (n h : NodeIx) (x : Byte) (k : Nat),
      t.ncnt.val = 2 * n.val - 1 ∧ t.node[n.val - 1]? = some (some (leafNode TERM 0)) ∧
      t.node[h.val]? = some (some (leafNode (byteSym x) k)) ∧ s.ft[x.toNat]? = some (some k) ∧
      (∃ m : NodeIx, m.val = n.val - 1 ∧ t.node[n.val]? = some (some (innerNode (some m) (some h) k))) ∧
      0 < k ∧ (∀ (b : Byte) (c : Nat), s.ft[b.toNat]? = some (some c) → 0 < c → k < c ∨ (k = c ∧ x.toNat ≤ b.toNat))

/-! ## CodeTable -/

/-- R156 (with R155): `CODES` gives every symbol on a leaf its path, 0 for left and 1 for right, and no code to any other. -/
def Obligations.CodesRecordsThePaths : Prop :=
  ∀ s : State,
    (s.treeV = false → ∃ t, exec .codes s = .next t ∧ OnlyFails .notReady s t) ∧
    (∀ tree hs, s.treeV = true → s.tree? = some (tree, hs) → tree.leaves.Nodup →
      ∃ t, exec .codes s = .next t ∧ EndsOk 0 s t ∧ HoldsCodes t tree ∧ t.ctV = true ∧ t.ftV = s.ftV ∧ t.treeV = true ∧
        KeepsTree s t ∧ t.ft = s.ft ∧ KeepsChannel s t ∧ KeepsHost s t ∧ t.snk = s.snk ∧ t.spos = s.spos)

/-- The prefix property (R36, R157): after `CODES` no code is a prefix of another symbol's code, and unless the tree is a
single leaf no code is empty. -/
def Obligations.NoCodeIsAPrefixOfAnother : Prop :=
  ∀ (s t : State) (tree : Tree) (hs : List NodeIx), s.treeV = true → s.tree? = some (tree, hs) → tree.leaves.Nodup →
    exec .codes s = .next t →
    ∀ (x y : Sym) (ex ey : CodeEntry), t.ct[x.val]? = some (some ex) → t.ct[y.val]? = some (some ey) →
      ex.v = true → ey.v = true → (x ≠ y → ¬ ex.code <+: ey.code) ∧ (tree.size ≠ 1 → ex.code ≠ [])

/-! ## TreeCodec -/

/-- Counts on full binary trees with distinct leaves (R10, R74): `n` leaves are at most 257, `2n - 1` nodes, depth at most
`n - 1`, and, the terminator among `n >= 2` of them, a header of `11 n - 9` bits. -/
def Obligations.TreeAndHeaderSizes : Prop :=
  ∀ tree : Tree, tree.Wf →
    tree.leaves.length ≤ 257 ∧ tree.size = 2 * tree.leaves.length - 1 ∧ tree.depth ≤ tree.leaves.length - 1 ∧
    (2 ≤ tree.leaves.length → tree.header.length = 11 * tree.leaves.length - 9) ∧
    (tree.leaves.length = 1 → tree.header.length = 2) ∧ tree.header.length ≤ 2818

/-- R166: `SERTREE` writes the header of the tree, bit after bit, and aligns nothing: `11 n - 9` bits for `n >= 2` leaves with
the terminator, 2 for the terminator alone; a push that fails loses its byte. -/
def Obligations.SertreeWritesTheHeader : Prop :=
  ∀ s : State,
    (s.dir ≠ .write → ∃ t, exec .sertree s = .next t ∧ OnlyFails .invalidDirection s t) ∧
    (s.dir = .write → s.treeV = false → ∃ t, exec .sertree s = .next t ∧ OnlyFails .notReady s t) ∧
    (∀ tree hs, s.dir = .write → s.cnt.val ≤ 7 → s.treeV = true → s.tree? = some (tree, hs) →
      (tree.Wf → tree.header.length = if tree.leaves.length = 1 then 2 else 11 * tree.leaves.length - 9) ∧
      (hasRoom ((s.cnt.val + tree.header.length) / 8) s = true →
        ∃ t, exec .sertree s = .next t ∧ EndsOk 0 s t ∧ Appends tree.header s t) ∧
      (hasRoom ((s.cnt.val + tree.header.length) / 8) s = false →
        ∃ t, exec .sertree s = .next t ∧ EndsFailed .ioError s t ∧ LosesAByte tree.header s t))

/-- `DESTREE` on a well-formed header (R171, R174, R176): it takes exactly the header's bits and builds its tree, handles in
pre-order, every weight 0. -/
def Obligations.DestreeReadsTheHeader : Prop :=
  ∀ (s : State) (tree : Tree) (l : List Bool), s.dir = .read → tree.Wf → s.readable = tree.header ++ l →
    ∃ t hs, exec .destree s = .next t ∧ EndsOk 0 s t ∧ HoldsTree t tree ∧ t.tree? = some (tree, hs) ∧
      hs.map (·.val) = List.range tree.size ∧ t.ncnt.val = tree.size ∧ t.root.map (·.val) = some 0 ∧
      (∀ h ∈ hs, ∃ e, t.node[h.val]? = some (some e) ∧ e.w = 0) ∧
      t.readable = l ∧ s.unread = tree.header ++ t.unread ∧ t.ftV = s.ftV ∧ t.treeV = true ∧ t.ctV = false ∧
      t.ft = s.ft ∧ t.ct = s.ct ∧ t.dir = .read ∧ KeepsHost s t ∧ t.snk = s.snk

/-- `DESTREE` on anything else (R89, R171, R173): a channel not open for reading is `InvalidDirection`; when the bits that can
be read do not begin with the header of a valid tree it ends with `CorruptHeader`, or with `IoError` where a pull failed
before that showed; bits that end inside a valid header end it with the one or the other by why they end. No tree is
then valid and the channel stays open for reading. -/
def Obligations.DestreeRejectsMalformedHeaders : Prop :=
  (∀ s : State, s.dir ≠ .read → ∃ t, exec .destree s = .next t ∧ OnlyFails .invalidDirection s t) ∧
  (∀ s : State, s.dir = .read → s.spos ≤ s.src.data.length →
    (∀ (tree : Tree) (l : List Bool), tree.Wf → s.readable ≠ tree.header ++ l) →
    ∃ t f, exec .destree s = .next t ∧ EndsFailed f s t ∧
      (f = .corruptHeader ∨ (f = .ioError ∧ readsIntoError s = true ∧ t.readable = [])) ∧
      (∀ (tree : Tree) (l : List Bool), tree.Wf → tree.header = s.readable ++ l →
        f = (if readsIntoError s then .ioError else .corruptHeader) ∧ t.readable = [] ∧ t.cnt.val = 0) ∧
      t.treeV = false ∧ t.ctV = false ∧ t.ftV = s.ftV ∧ t.root = none ∧ t.dir = .read ∧ t.ft = s.ft ∧ t.ct = s.ct ∧
      KeepsHost s t ∧ t.snk = s.snk)

/-- The document's round trip of the TreeCodec (R176, R32): the tree written by `SERTREE` into an empty sink and read back
by `DESTREE` is the same abstract tree. -/
def Obligations.TreeSurvivesTheHeader : Prop :=
  ∀ (s : State) (tree : Tree), s.treeV = true → HoldsTree s tree → s.dir = .closed →
    s.snk = { present := true, data := [], cap := none } →
    ∃ t, issue [.openw, .sertree, .close] s = .next t ∧ t.faults = s.faults ∧
      ∀ u : State, u.dir = .closed → u.src = { present := true, data := t.snk.data, errAt := none } →
        ∃ v, issue [.openr, .destree] u = .next v ∧ v.faults = u.faults ∧ v.treeV = true ∧ HoldsTree v tree

/-! ## The header tokens as instructions (R86, R171; token by token: log entry 6) -/

/-- `INT` in a header: the 257th is a corrupt header; any other allocates an Internal node whose left subtree comes next. -/
def Obligations.IntTokenOpensANode : Prop :=
  ∀ (s : State) (p : HeaderParse), s.hdr = some p →
    (p.nint.val = 256 → ∃ t, exec .int s = .next t ∧ EndsFailed .corruptHeader s t ∧ t.hdr = none ∧
      KeepsChannel s t ∧ KeepsFlags s t ∧ KeepsTables s t ∧ t.src = s.src ∧ t.snk = s.snk ∧ t.spos = s.spos) ∧
    (∀ n : NodeIx, p.nint.val < 256 → s.ncnt.val = n.val → ∃ t q, exec .int s = .next t ∧ t.hdr = some q ∧
      q.seen = p.seen ∧ q.nint.val = p.nint.val + 1 ∧ q.stack = .left n :: p.stack ∧
      t.ncnt.val = n.val + 1 ∧ t.root = s.root ∧ t.node = s.node.set n.val (some (innerNode none none 0)) n.isLt ∧
      KeepsChannel s t ∧ KeepsFlags s t ∧ t.ft = s.ft ∧ t.ct = s.ct ∧ t.src = s.src ∧ t.snk = s.snk ∧ t.spos = s.spos ∧
      t.resp = s.resp ∧ t.status = s.status ∧ t.faults = s.faults ∧ t.res = s.res)

/-- `LEAFB` and `LEAFT` in a header (R171): a symbol seen before is a corrupt header. A leaf is allocated and returned to the
calls that wait: while these wait for a right child (`rs`, innermost first; none when the leaf itself is a left child) each
gets the subtree just closed as its right child and is closed in turn; then the call that waits for a left child links it
and its right subtree comes next; or no call is left, and the header ends with the tree as `ROOT`, a corrupt header when
the terminator is not in it. In every parse whose open nodes are in use the token completes. -/
def Obligations.LeafTokensAddALeaf : Prop :=
  ∀ (s : State) (p : HeaderParse) (i : Instr) (x : Sym), s.hdr = some p →
    ((∃ b, i = .leafb b ∧ x = byteSym b) ∨ (i = .leaft ∧ x = TERM)) →
    (x ∈ p.seen → ∃ t, exec i s = .next t ∧ EndsFailed .corruptHeader s t ∧ t.hdr = none ∧
      KeepsChannel s t ∧ KeepsFlags s t ∧ KeepsTables s t ∧ t.src = s.src ∧ t.snk = s.snk ∧ t.spos = s.spos) ∧
    (∀ (n h : NodeIx) (rs : List NodeIx) (st : List Frame) (e : Node), x ∉ p.seen → s.ncnt.val = n.val →
      p.stack = rs.map .right ++ .left h :: st → (∀ g ∈ rs, g.val < n.val ∧ ∃ e, s.node[g.val]? = some (some e)) →
      h.val < n.val → (linkRights n rs (s.node.set n.val (some (leafNode x 0)) n.isLt))[h.val]? = some (some e) →
      ∃ t, exec i s = .next t ∧ t.hdr = some { seen := x :: p.seen, nint := p.nint, stack := .right h :: st } ∧
        t.node = (linkRights n rs (s.node.set n.val (some (leafNode x 0)) n.isLt)).set h.val
          (some { e with left := some (rs.getLastD n) }) h.isLt ∧
        t.ncnt.val = n.val + 1 ∧ t.root = s.root ∧ KeepsChannel s t ∧ KeepsFlags s t ∧ t.ft = s.ft ∧ t.ct = s.ct ∧
        t.src = s.src ∧ t.snk = s.snk ∧ t.spos = s.spos ∧ t.resp = s.resp ∧ t.status = s.status ∧ t.faults = s.faults ∧
        t.res = s.res) ∧
    (∀ (n : NodeIx) (rs : List NodeIx), x ∉ p.seen → s.ncnt.val = n.val → p.stack = rs.map .right →
      (∀ g ∈ rs, g.val < n.val ∧ ∃ e, s.node[g.val]? = some (some e)) →
      ∃ t, exec i s = .next t ∧ t.hdr = none ∧
        t.node = linkRights n rs (s.node.set n.val (some (leafNode x 0)) n.isLt) ∧ t.ncnt.val = n.val + 1 ∧
        ((x = TERM ∨ TERM ∈ p.seen) → EndsOk 0 s t ∧ t.root = some (rs.getLastD n) ∧ t.treeV = true) ∧
        (x ≠ TERM → TERM ∉ p.seen → EndsFailed .corruptHeader s t ∧ t.root = s.root ∧ t.treeV = s.treeV) ∧
        KeepsChannel s t ∧ t.ftV = s.ftV ∧ t.ctV = s.ctV ∧ t.ft = s.ft ∧ t.ct = s.ct ∧ t.src = s.src ∧ t.snk = s.snk ∧
        t.spos = s.spos) ∧
    (x ∉ p.seen → s.ncnt.val < 513 →
      (∀ f ∈ p.stack, ∀ h, (f = .left h ∨ f = .right h) → h.val < s.ncnt.val ∧ ∃ e, s.node[h.val]? = some (some e)) →
      ∃ t, exec i s = .next t)

/-- A header token run where no header is being parsed has no meaning: it is refused by name (INDEX.md: tokens are "not
decoded from a word"; the refusal is the model's: log entry 6). -/
def Obligations.TokensOutsideAHeaderAreRefused : Prop :=
  ∀ (s : State) (i : Instr), i.isCommand = false → s.hdr = none → exec i s = .refused .tokenOutsideHeader

/-- `DESTREE` is its tokens run one after another (R88, R171, R225): from the state it clears, with a parse begun, some
number of token steps ends in the very state the one command ends in. -/
def Obligations.DestreeIsItsTokensInOrder : Prop :=
  ∀ s t : State, s.hdr = none → s.dir = .read → exec .destree s = .next t →
    ∃ k, Sys2Proof.core.run k ((clearTree s).withHdr (some .start)) = .next t

/-! ## Encoder -/

/-- R186 (with R185): `PUTSYM` writes the code of its byte. -/
def Obligations.PutsymWritesTheCode : Prop :=
  ∀ (s : State) (v : Byte),
    (s.dir ≠ .write → ∃ t, exec (.putsym v) s = .next t ∧ OnlyFails .invalidDirection s t) ∧
    (s.dir = .write → s.ctV = false → ∃ t, exec (.putsym v) s = .next t ∧ OnlyFails .notReady s t) ∧
    (∀ e, s.dir = .write → s.ctV = true → s.ct[v.toNat]? = some (some e) → e.v = false →
      ∃ t, exec (.putsym v) s = .next t ∧ OnlyFails .notReady s t) ∧
    (∀ e, s.dir = .write → s.cnt.val ≤ 7 → s.ctV = true → s.ct[v.toNat]? = some (some e) → e.v = true →
      (hasRoom ((s.cnt.val + e.len) / 8) s = true →
        ∃ t, exec (.putsym v) s = .next t ∧ EndsOk 0 s t ∧ Appends e.code s t) ∧
      (hasRoom ((s.cnt.val + e.len) / 8) s = false →
        ∃ t, exec (.putsym v) s = .next t ∧ EndsFailed .ioError s t ∧ LosesAByte e.code s t))

/-- R187: `PUTTERM` writes the terminator's code. -/
def Obligations.PuttermWritesTheTerminatorsCode : Prop :=
  ∀ s : State,
    (s.dir ≠ .write → ∃ t, exec .putterm s = .next t ∧ OnlyFails .invalidDirection s t) ∧
    (s.dir = .write → s.ctV = false → ∃ t, exec .putterm s = .next t ∧ OnlyFails .notReady s t) ∧
    (∀ e, s.dir = .write → s.cnt.val ≤ 7 → s.ctV = true → s.ct[256]? = some (some e) →
      (hasRoom ((s.cnt.val + e.len) / 8) s = true →
        ∃ t, exec .putterm s = .next t ∧ EndsOk 0 s t ∧ Appends e.code s t) ∧
      (hasRoom ((s.cnt.val + e.len) / 8) s = false →
        ∃ t, exec .putterm s = .next t ∧ EndsFailed .ioError s t ∧ LosesAByte e.code s t))

/-- What both macro commands test before anything is changed, in order (R189, R203, R223): the channel closed, a source, a
sink; each failing test leaves everything but `STATUS`, `FAULTS` and `RES` as it was. And a source that fails in
`COMPRESS`'s first scan leaves the sink as it was (R191). -/
def Obligations.MacrosTestBeforeTheyChange : Prop :=
  (∀ (s : State) (i : Instr), (i = .compress ∨ i = .decompress) →
    (s.dir ≠ .closed → ∃ t, exec i s = .next t ∧ OnlyFails .notReady s t) ∧
    (s.dir = .closed → (s.src.present = false ∨ s.snk.present = false) →
      ∃ t, exec i s = .next t ∧ OnlyFails .ioError s t)) ∧
  (∀ (s : State) (e : Nat), s.dir = .closed → s.src.present = true → s.snk.present = true → s.src.errAt = some e →
    e ≤ s.src.data.length →
    ∃ t, exec .compress s = .next t ∧ EndsFailed .ioError s t ∧ t.snk = s.snk ∧ t.spos = e ∧ t.dir = .closed ∧
      t.buf = 0#8 ∧ t.cnt.val = 0 ∧ t.ftV = false ∧ t.treeV = false ∧ t.ctV = false ∧ KeepsHost s t)

/-- Release on every path (R224, R191, R205, R29): whatever happens inside a macro command, it ends with the channel closed
and empty and the three flags clear, and the sink has only grown. -/
def Obligations.MacrosReleaseOnEveryPath : Prop :=
  ∀ (s t : State) (i : Instr), (i = .compress ∨ i = .decompress) → s.dir = .closed → s.src.present = true →
    s.snk.present = true → exec i s = .next t →
    t.dir = .closed ∧ t.buf = 0#8 ∧ t.cnt.val = 0 ∧ t.ftV = false ∧ t.treeV = false ∧ t.ctV = false ∧
    s.snk.data <+: t.snk.data ∧ KeepsHost s t

/-- `COMPRESS` (R189, R191, R192): with a readable source it appends exactly the header of the tree that `FREQ` and `BUILD`
make of the source, the codes of its bytes, the terminator's code, and zero bits to the byte boundary; on a sink without
room for them it ends with `IoError`, the sink filled to its capacity with the first of these bytes. `SPOS` is then the end
of the source, unless the bit that fills the lost byte belongs to a byte's code: then it is right after that byte. -/
def Obligations.CompressWritesHeaderPayloadPadding : Prop :=
  ∀ s : State, s.dir = .closed → s.src.present = true → (∀ e, s.src.errAt = some e → s.src.data.length < e) →
    s.src.data.length < 2 ^ s.cfg.cw → s.snk.present = true →
    ∃ u tree t, issue [.freq, .build] s = .next u ∧ HoldsTree u tree ∧
      (∀ b ∈ s.src.data, ∃ c, tree.code? (byteSym b) = some c ∧ c ≠ []) ∧ exec .compress s = .next t ∧
      (hasRoom (pack (tree.header ++ tree.payload s.src.data)).length s = true →
        EndsOk 0 s t ∧ t.snk = { s.snk with data := s.snk.data ++ pack (tree.header ++ tree.payload s.src.data) } ∧
        t.spos = s.src.data.length) ∧
      (∀ c, s.snk.cap = some c → hasRoom (pack (tree.header ++ tree.payload s.src.data)).length s = false →
        EndsFailed .ioError s t ∧ t.snk = { s.snk with
          data := s.snk.data ++ (pack (tree.header ++ tree.payload s.src.data)).take (c - s.snk.data.length) } ∧
        ∀ lost, lost = 8 * (c - s.snk.data.length + 1) →
          (lost ≤ tree.header.length ∨ tree.header.length + (tree.codes s.src.data).length < lost →
            t.spos = s.src.data.length) ∧
          (tree.header.length < lost → lost ≤ tree.header.length + (tree.codes s.src.data).length →
            t.spos ≤ s.src.data.length ∧ lost ≤ tree.header.length + (tree.codes (s.src.data.take t.spos)).length ∧
            tree.header.length + (tree.codes (s.src.data.take (t.spos - 1))).length < lost)) ∧
      t.dir = .closed ∧ t.buf = 0#8 ∧ t.cnt.val = 0 ∧ t.ftV = false ∧ t.treeV = false ∧ t.ctV = false ∧ KeepsHost s t

/-- R190, which the spec derives from R189: with a source without error position and room in the sink, `COMPRESS` leaves what
`FREQ`, `BUILD`, `CODES`, `OPENW`, `SERTREE`, one `PUTSYM` for each byte, `PUTTERM` and `CLOSE` leave, but for the three
flags. -/
def Obligations.CompressEqualsItsCommands : Prop :=
  ∀ s : State, s.dir = .closed → s.src.present = true → s.src.errAt = none → s.src.data.length < 2 ^ s.cfg.cw →
    s.snk.present = true →
    (s.snk.cap = none → ∃ t, exec .compress s = .next t ∧ t.status = .ok) ∧
    ∀ t, exec .compress s = .next t → t.status = .ok →
      ∃ u, issue ([.freq, .build, .codes, .openw, .sertree] ++ s.src.data.map .putsym ++ [.putterm, .close]) s = .next u ∧
        t.snk = u.snk ∧ t.spos = u.spos ∧ u.status = .ok ∧ t.faults = u.faults ∧ t.res = u.res ∧
        KeepsChannel u t ∧ KeepsTables u t ∧ KeepsHost u t ∧
        t.ftV = false ∧ t.treeV = false ∧ t.ctV = false ∧ u.ftV = true ∧ u.treeV = true ∧ u.ctV = true

/-! ## Decoder -/

/-- R201 (with R200): `GETSYM` walks from the root by the bits of the stream to a leaf and returns its symbol; the source's
end inside the walk is `TruncatedStream`, a pull that fails inside it `IoError`, with the bits read so far consumed. -/
def Obligations.GetsymDecodesOneSymbol : Prop :=
  ∀ s : State,
    (s.dir ≠ .read → ∃ t, exec .getsym s = .next t ∧ OnlyFails .invalidDirection s t) ∧
    (s.dir = .read → s.treeV = false → ∃ t, exec .getsym s = .next t ∧ OnlyFails .notReady s t) ∧
    (∀ tree hs x c l, s.dir = .read → s.treeV = true → s.tree? = some (tree, hs) →
      tree.code? x = some c → s.readable = c ++ l →
      ∃ t, exec .getsym s = .next t ∧ EndsOk x s t ∧ t.readable = l ∧ s.unread = c ++ t.unread ∧ KeepsAllButReading s t) ∧
    (∀ tree hs, s.dir = .read → s.treeV = true → s.tree? = some (tree, hs) → tree.leaves.Nodup →
      s.spos ≤ s.src.data.length → (∀ x c, tree.code? x = some c → ¬ c <+: s.readable) →
      ∃ t, exec .getsym s = .next t ∧ EndsFailed (if readsIntoError s then .ioError else .truncatedStream) s t ∧
        t.readable = [] ∧ t.cnt.val = 0 ∧ KeepsAllButReading s t)

/-- `DECOMPRESS` (R203, R204, U4, U15): where the bits that can be read from byte 0 begin with a header, the codes of some
bytes and the terminator's code, and the sink has room, it pushes those bytes and stops there, whatever bits and bytes
follow, a position where a pull would fail among them. -/
def Obligations.DecompressStopsAtTheTerminator : Prop :=
  ∀ (s : State) (tree : Tree) (out : List Byte) (rest : List Bool), s.dir = .closed → s.src.present = true →
    s.snk.present = true → hasRoom out.length s = true → tree.Wf →
    (∀ b ∈ out, ∃ c, tree.code? (byteSym b) = some c) →
    s.opened.readable = tree.header ++ tree.payload out ++ rest →
    ∃ t, exec .decompress s = .next t ∧ EndsOk 0 s t ∧ t.snk = { s.snk with data := s.snk.data ++ out } ∧
      t.spos = (tree.header.length + (tree.payload out).length + 7) / 8 ∧
      t.dir = .closed ∧ t.buf = 0#8 ∧ t.cnt.val = 0 ∧ t.ftV = false ∧ t.treeV = false ∧ t.ctV = false ∧
      t.ft = s.ft ∧ t.ct = s.ct ∧ KeepsHost s t

/-- How `DECOMPRESS` fails once it has started (R203, R205, R221, R224). Bits that do not begin with the header of a valid
tree: `CorruptHeader`, or `IoError` where a pull failed before that showed, and nothing pushed; the one or the other by why
the bits end, where they end inside a valid header. A payload that ends inside a code: `TruncatedStream`, or `IoError` where
the next pull fails, with the bytes decoded before it in the sink. A push that fails: `IoError`, with the bytes before it in
the sink and nothing read after the code of the byte it loses. On each of these the channel is closed and the flags are
clear. -/
def Obligations.DecompressReportsBadStreams : Prop :=
  ∀ s : State, s.dir = .closed → s.src.present = true → s.snk.present = true →
    ((∀ (tree : Tree) (l : List Bool), tree.Wf → s.opened.readable ≠ tree.header ++ l) →
      ∃ t f, exec .decompress s = .next t ∧ EndsFailed f s t ∧
        (f = .corruptHeader ∨ (f = .ioError ∧ readsIntoError s.opened = true)) ∧
        (∀ (tree : Tree) (l : List Bool), tree.Wf → tree.header = s.opened.readable ++ l →
          f = if readsIntoError s.opened then .ioError else .corruptHeader) ∧
        (f = .ioError → t.spos = s.opened.readable.length / 8) ∧ t.snk = s.snk ∧ t.dir = .closed ∧ t.buf = 0#8 ∧
        t.cnt.val = 0 ∧ t.ftV = false ∧ t.treeV = false ∧ t.ctV = false ∧ t.ft = s.ft ∧ t.ct = s.ct ∧ KeepsHost s t) ∧
    (∀ (tree : Tree) (out : List Byte) (rest : List Bool), tree.Wf →
      (∀ b ∈ out, ∃ c, tree.code? (byteSym b) = some c) →
      s.opened.readable = tree.header ++ tree.codes out ++ rest →
      (hasRoom out.length s = true → (∀ x c, tree.code? x = some c → ¬ c <+: rest) →
        ∃ t, exec .decompress s = .next t ∧
          EndsFailed (if readsIntoError s.opened then .ioError else .truncatedStream) s t ∧
          t.snk = { s.snk with data := s.snk.data ++ out } ∧ t.spos = s.opened.readable.length / 8 ∧ t.dir = .closed ∧
          t.buf = 0#8 ∧ t.cnt.val = 0 ∧ t.ftV = false ∧ t.treeV = false ∧ t.ctV = false ∧ t.ft = s.ft ∧ t.ct = s.ct ∧
          KeepsHost s t) ∧
      (∀ c, s.snk.cap = some c → hasRoom out.length s = false →
        ∃ t, exec .decompress s = .next t ∧ EndsFailed .ioError s t ∧
          t.snk = { s.snk with data := s.snk.data ++ out.take (c - s.snk.data.length) } ∧
          t.spos = (tree.header.length + (tree.codes (out.take (c - s.snk.data.length + 1))).length + 7) / 8 ∧
          t.dir = .closed ∧ t.buf = 0#8 ∧ t.cnt.val = 0 ∧ t.ftV = false ∧ t.treeV = false ∧ t.ctV = false ∧
          t.ft = s.ft ∧ t.ct = s.ct ∧ KeepsHost s t))

/-- R208, which the spec derives from R192, R203 and R176: `decompress(compress(S)) = S` for every finite byte sequence. -/
def Obligations.DecompressUndoesCompress : Prop :=
  ∀ s : State, s.dir = .closed → s.src.present = true → s.src.errAt = none → s.src.data.length < 2 ^ s.cfg.cw →
    s.snk = { present := true, data := [], cap := none } →
    ∃ t, exec .compress s = .next t ∧ t.status = .ok ∧
      ∀ u : State, u.dir = .closed → u.src = { present := true, data := t.snk.data, errAt := none } →
        u.snk = { present := true, data := [], cap := none } →
        ∃ v, exec .decompress u = .next v ∧ v.status = .ok ∧ v.snk.data = s.src.data

/-! ## What an instruction leaves alone -/

/-- What no instruction writes (R40 to R42, R9): `CW`, the source and the host's moves; the sink only grows; and a command
leaves no parse behind (R46). -/
def Obligations.InstructionsLeaveTheHostSide : Prop :=
  ∀ (i : Instr) (s t : State), exec i s = .next t →
    t.cfg = s.cfg ∧ t.src = s.src ∧ t.inbox = s.inbox ∧ t.snk.present = s.snk.present ∧ t.snk.cap = s.snk.cap ∧
    s.snk.data <+: t.snk.data ∧ s.resp <+: t.resp ∧ (i.isCommand = true → t.hdr = s.hdr)

/-- The tables and flags are written only by the commands of R22, R29 and R51 that own them (and, inside `DESTREE`, by its
tokens). -/
def Obligations.TablesAreWrittenByTheirOwners : Prop :=
  ∀ (i : Instr) (s t : State), exec i s = .next t →
    (i ∉ [.freq, .compress] → t.ft = s.ft) ∧
    (i.isCommand = true → i ∉ [.build, .destree, .compress, .decompress] → KeepsTree s t) ∧
    (i ∉ [.codes, .compress] → t.ct = s.ct) ∧
    (i ∉ [.freq, .compress, .decompress] → t.ftV = s.ftV) ∧
    (i.isCommand = true → i ∉ [.freq, .build, .destree, .compress, .decompress] → t.treeV = s.treeV) ∧
    (i ∉ [.freq, .build, .codes, .destree, .compress, .decompress] → t.ctV = s.ctV)

/-- The streams and the channel are reached only by the commands of R51 and R22: by row, `SPOS`, the sink, `BC.DIR`, and the
buffer. -/
def Obligations.StreamsAreReachedByTheirUsers : Prop :=
  ∀ (i : Instr) (s t : State), exec i s = .next t →
    (i ∉ [.openr, .rdbit, .rdbyte, .freq, .destree, .getsym, .compress, .decompress] → t.spos = s.spos) ∧
    (i ∈ [.openr, .openw, .rdbit, .rdbyte, .freq, .build, .codes, .destree, .getsym, .int, .leaft] → t.snk = s.snk) ∧
    ((∃ b, i = .leafb b) → t.snk = s.snk) ∧
    (i ∉ [.openr, .openw, .close, .compress, .decompress] → t.dir = s.dir) ∧
    (i ∈ [.freq, .build, .codes, .int, .leaft] → KeepsChannel s t) ∧
    ((∃ b, i = .leafb b) → KeepsChannel s t)

/-! ## Invariants -/

/-- The invariants hold after reset. -/
def Obligations.ResetMeetsTheInvariants : Prop := Inv State.reset

/-- R27, which the spec derives from R25, R26 and R110 to R122: the invariants of `BC` hold before and after every command,
from any state in which they hold, reached or not. -/
def Obligations.StepKeepsTheChannelInvariant : Prop :=
  ∀ s t : State, ChannelOk s → step s = .next t → ChannelOk t

/-- Every step keeps all the invariants (R27 to R29, R31, R34, R36, R37, R40, R46, R132): the channel's, the record of
failures, the bounds of source, counts and weights, a valid tree and its codes behind their flags, no parse left behind. -/
def Obligations.StepKeepsTheInvariants : Prop :=
  ∀ s t : State, Inv s → step s = .next t → Inv t

/-- Under the invariants the machine never stops: a step gives a next state, or the host bound a source the spec does not
admit. In particular no table entry is read before it is written (R45), no arena or buffer overruns (R30, R174), and every
command ends within the spec's bounds (R206, R264). -/
def Obligations.StepNeverFaults : Prop :=
  ∀ s : State, Inv s →
    (∃ t, step s = .next t) ∨
    (∃ r l, s.inbox = .bindSource r :: l ∧ r.legal s.cfg = false ∧ step s = .refused .sourceOutsideSpec)
end

