-- ==== Sys2Proof/Laws/State.lean ====
section
/-! SUPPORT. One lemma for each field after each update of the state, so that no proof unfolds a record update. -/

namespace Sys2Proof.Machine

variable (s : State)

@[simp] theorem State.withChan_cfg (d : Dir) (b : Byte) (c : Fin 9) : (s.withChan d b c).cfg = s.cfg := rfl
@[simp] theorem State.withChan_dir (d : Dir) (b : Byte) (c : Fin 9) : (s.withChan d b c).dir = d := rfl
@[simp] theorem State.withChan_buf (d : Dir) (b : Byte) (c : Fin 9) : (s.withChan d b c).buf = b := rfl
@[simp] theorem State.withChan_cnt (d : Dir) (b : Byte) (c : Fin 9) : (s.withChan d b c).cnt = c := rfl
@[simp] theorem State.withChan_spos (d : Dir) (b : Byte) (c : Fin 9) : (s.withChan d b c).spos = s.spos := rfl
@[simp] theorem State.withChan_status (d : Dir) (b : Byte) (c : Fin 9) : (s.withChan d b c).status = s.status := rfl
@[simp] theorem State.withChan_faults (d : Dir) (b : Byte) (c : Fin 9) : (s.withChan d b c).faults = s.faults := rfl
@[simp] theorem State.withChan_res (d : Dir) (b : Byte) (c : Fin 9) : (s.withChan d b c).res = s.res := rfl
@[simp] theorem State.withChan_ftV (d : Dir) (b : Byte) (c : Fin 9) : (s.withChan d b c).ftV = s.ftV := rfl
@[simp] theorem State.withChan_treeV (d : Dir) (b : Byte) (c : Fin 9) : (s.withChan d b c).treeV = s.treeV := rfl
@[simp] theorem State.withChan_ctV (d : Dir) (b : Byte) (c : Fin 9) : (s.withChan d b c).ctV = s.ctV := rfl
@[simp] theorem State.withChan_root (d : Dir) (b : Byte) (c : Fin 9) : (s.withChan d b c).root = s.root := rfl
@[simp] theorem State.withChan_ncnt (d : Dir) (b : Byte) (c : Fin 9) : (s.withChan d b c).ncnt = s.ncnt := rfl
@[simp] theorem State.withChan_ft (d : Dir) (b : Byte) (c : Fin 9) : (s.withChan d b c).ft = s.ft := rfl
@[simp] theorem State.withChan_node (d : Dir) (b : Byte) (c : Fin 9) : (s.withChan d b c).node = s.node := rfl
@[simp] theorem State.withChan_ct (d : Dir) (b : Byte) (c : Fin 9) : (s.withChan d b c).ct = s.ct := rfl
@[simp] theorem State.withChan_hdr (d : Dir) (b : Byte) (c : Fin 9) : (s.withChan d b c).hdr = s.hdr := rfl
@[simp] theorem State.withChan_src (d : Dir) (b : Byte) (c : Fin 9) : (s.withChan d b c).src = s.src := rfl
@[simp] theorem State.withChan_snk (d : Dir) (b : Byte) (c : Fin 9) : (s.withChan d b c).snk = s.snk := rfl
@[simp] theorem State.withChan_inbox (d : Dir) (b : Byte) (c : Fin 9) : (s.withChan d b c).inbox = s.inbox := rfl
@[simp] theorem State.withChan_resp (d : Dir) (b : Byte) (c : Fin 9) : (s.withChan d b c).resp = s.resp := rfl

@[simp] theorem State.withBuf_cfg (b : Byte) (c : Fin 9) : (s.withBuf b c).cfg = s.cfg := rfl
@[simp] theorem State.withBuf_dir (b : Byte) (c : Fin 9) : (s.withBuf b c).dir = s.dir := rfl
@[simp] theorem State.withBuf_buf (b : Byte) (c : Fin 9) : (s.withBuf b c).buf = b := rfl
@[simp] theorem State.withBuf_cnt (b : Byte) (c : Fin 9) : (s.withBuf b c).cnt = c := rfl
@[simp] theorem State.withBuf_spos (b : Byte) (c : Fin 9) : (s.withBuf b c).spos = s.spos := rfl
@[simp] theorem State.withBuf_status (b : Byte) (c : Fin 9) : (s.withBuf b c).status = s.status := rfl
@[simp] theorem State.withBuf_faults (b : Byte) (c : Fin 9) : (s.withBuf b c).faults = s.faults := rfl
@[simp] theorem State.withBuf_res (b : Byte) (c : Fin 9) : (s.withBuf b c).res = s.res := rfl
@[simp] theorem State.withBuf_ftV (b : Byte) (c : Fin 9) : (s.withBuf b c).ftV = s.ftV := rfl
@[simp] theorem State.withBuf_treeV (b : Byte) (c : Fin 9) : (s.withBuf b c).treeV = s.treeV := rfl
@[simp] theorem State.withBuf_ctV (b : Byte) (c : Fin 9) : (s.withBuf b c).ctV = s.ctV := rfl
@[simp] theorem State.withBuf_root (b : Byte) (c : Fin 9) : (s.withBuf b c).root = s.root := rfl
@[simp] theorem State.withBuf_ncnt (b : Byte) (c : Fin 9) : (s.withBuf b c).ncnt = s.ncnt := rfl
@[simp] theorem State.withBuf_ft (b : Byte) (c : Fin 9) : (s.withBuf b c).ft = s.ft := rfl
@[simp] theorem State.withBuf_node (b : Byte) (c : Fin 9) : (s.withBuf b c).node = s.node := rfl
@[simp] theorem State.withBuf_ct (b : Byte) (c : Fin 9) : (s.withBuf b c).ct = s.ct := rfl
@[simp] theorem State.withBuf_hdr (b : Byte) (c : Fin 9) : (s.withBuf b c).hdr = s.hdr := rfl
@[simp] theorem State.withBuf_src (b : Byte) (c : Fin 9) : (s.withBuf b c).src = s.src := rfl
@[simp] theorem State.withBuf_snk (b : Byte) (c : Fin 9) : (s.withBuf b c).snk = s.snk := rfl
@[simp] theorem State.withBuf_inbox (b : Byte) (c : Fin 9) : (s.withBuf b c).inbox = s.inbox := rfl
@[simp] theorem State.withBuf_resp (b : Byte) (c : Fin 9) : (s.withBuf b c).resp = s.resp := rfl

@[simp] theorem State.withSpos_cfg (n : Nat) : (s.withSpos n).cfg = s.cfg := rfl
@[simp] theorem State.withSpos_dir (n : Nat) : (s.withSpos n).dir = s.dir := rfl
@[simp] theorem State.withSpos_buf (n : Nat) : (s.withSpos n).buf = s.buf := rfl
@[simp] theorem State.withSpos_cnt (n : Nat) : (s.withSpos n).cnt = s.cnt := rfl
@[simp] theorem State.withSpos_spos (n : Nat) : (s.withSpos n).spos = n := rfl
@[simp] theorem State.withSpos_status (n : Nat) : (s.withSpos n).status = s.status := rfl
@[simp] theorem State.withSpos_faults (n : Nat) : (s.withSpos n).faults = s.faults := rfl
@[simp] theorem State.withSpos_res (n : Nat) : (s.withSpos n).res = s.res := rfl
@[simp] theorem State.withSpos_ftV (n : Nat) : (s.withSpos n).ftV = s.ftV := rfl
@[simp] theorem State.withSpos_treeV (n : Nat) : (s.withSpos n).treeV = s.treeV := rfl
@[simp] theorem State.withSpos_ctV (n : Nat) : (s.withSpos n).ctV = s.ctV := rfl
@[simp] theorem State.withSpos_root (n : Nat) : (s.withSpos n).root = s.root := rfl
@[simp] theorem State.withSpos_ncnt (n : Nat) : (s.withSpos n).ncnt = s.ncnt := rfl
@[simp] theorem State.withSpos_ft (n : Nat) : (s.withSpos n).ft = s.ft := rfl
@[simp] theorem State.withSpos_node (n : Nat) : (s.withSpos n).node = s.node := rfl
@[simp] theorem State.withSpos_ct (n : Nat) : (s.withSpos n).ct = s.ct := rfl
@[simp] theorem State.withSpos_hdr (n : Nat) : (s.withSpos n).hdr = s.hdr := rfl
@[simp] theorem State.withSpos_src (n : Nat) : (s.withSpos n).src = s.src := rfl
@[simp] theorem State.withSpos_snk (n : Nat) : (s.withSpos n).snk = s.snk := rfl
@[simp] theorem State.withSpos_inbox (n : Nat) : (s.withSpos n).inbox = s.inbox := rfl
@[simp] theorem State.withSpos_resp (n : Nat) : (s.withSpos n).resp = s.resp := rfl

@[simp] theorem State.withSnkData_cfg (l : List Byte) : (s.withSnkData l).cfg = s.cfg := rfl
@[simp] theorem State.withSnkData_dir (l : List Byte) : (s.withSnkData l).dir = s.dir := rfl
@[simp] theorem State.withSnkData_buf (l : List Byte) : (s.withSnkData l).buf = s.buf := rfl
@[simp] theorem State.withSnkData_cnt (l : List Byte) : (s.withSnkData l).cnt = s.cnt := rfl
@[simp] theorem State.withSnkData_spos (l : List Byte) : (s.withSnkData l).spos = s.spos := rfl
@[simp] theorem State.withSnkData_status (l : List Byte) : (s.withSnkData l).status = s.status := rfl
@[simp] theorem State.withSnkData_faults (l : List Byte) : (s.withSnkData l).faults = s.faults := rfl
@[simp] theorem State.withSnkData_res (l : List Byte) : (s.withSnkData l).res = s.res := rfl
@[simp] theorem State.withSnkData_ftV (l : List Byte) : (s.withSnkData l).ftV = s.ftV := rfl
@[simp] theorem State.withSnkData_treeV (l : List Byte) : (s.withSnkData l).treeV = s.treeV := rfl
@[simp] theorem State.withSnkData_ctV (l : List Byte) : (s.withSnkData l).ctV = s.ctV := rfl
@[simp] theorem State.withSnkData_root (l : List Byte) : (s.withSnkData l).root = s.root := rfl
@[simp] theorem State.withSnkData_ncnt (l : List Byte) : (s.withSnkData l).ncnt = s.ncnt := rfl
@[simp] theorem State.withSnkData_ft (l : List Byte) : (s.withSnkData l).ft = s.ft := rfl
@[simp] theorem State.withSnkData_node (l : List Byte) : (s.withSnkData l).node = s.node := rfl
@[simp] theorem State.withSnkData_ct (l : List Byte) : (s.withSnkData l).ct = s.ct := rfl
@[simp] theorem State.withSnkData_hdr (l : List Byte) : (s.withSnkData l).hdr = s.hdr := rfl
@[simp] theorem State.withSnkData_src (l : List Byte) : (s.withSnkData l).src = s.src := rfl
@[simp] theorem State.withSnkData_snk (l : List Byte) : (s.withSnkData l).snk = { s.snk with data := l } := rfl
@[simp] theorem State.withSnkData_inbox (l : List Byte) : (s.withSnkData l).inbox = s.inbox := rfl
@[simp] theorem State.withSnkData_resp (l : List Byte) : (s.withSnkData l).resp = s.resp := rfl

@[simp] theorem State.withFlags_cfg (f g h : Bool) : (s.withFlags f g h).cfg = s.cfg := rfl
@[simp] theorem State.withFlags_dir (f g h : Bool) : (s.withFlags f g h).dir = s.dir := rfl
@[simp] theorem State.withFlags_buf (f g h : Bool) : (s.withFlags f g h).buf = s.buf := rfl
@[simp] theorem State.withFlags_cnt (f g h : Bool) : (s.withFlags f g h).cnt = s.cnt := rfl
@[simp] theorem State.withFlags_spos (f g h : Bool) : (s.withFlags f g h).spos = s.spos := rfl
@[simp] theorem State.withFlags_status (f g h : Bool) : (s.withFlags f g h).status = s.status := rfl
@[simp] theorem State.withFlags_faults (f g h : Bool) : (s.withFlags f g h).faults = s.faults := rfl
@[simp] theorem State.withFlags_res (f g h : Bool) : (s.withFlags f g h).res = s.res := rfl
@[simp] theorem State.withFlags_ftV (f g h : Bool) : (s.withFlags f g h).ftV = f := rfl
@[simp] theorem State.withFlags_treeV (f g h : Bool) : (s.withFlags f g h).treeV = g := rfl
@[simp] theorem State.withFlags_ctV (f g h : Bool) : (s.withFlags f g h).ctV = h := rfl
@[simp] theorem State.withFlags_root (f g h : Bool) : (s.withFlags f g h).root = s.root := rfl
@[simp] theorem State.withFlags_ncnt (f g h : Bool) : (s.withFlags f g h).ncnt = s.ncnt := rfl
@[simp] theorem State.withFlags_ft (f g h : Bool) : (s.withFlags f g h).ft = s.ft := rfl
@[simp] theorem State.withFlags_node (f g h : Bool) : (s.withFlags f g h).node = s.node := rfl
@[simp] theorem State.withFlags_ct (f g h : Bool) : (s.withFlags f g h).ct = s.ct := rfl
@[simp] theorem State.withFlags_hdr (f g h : Bool) : (s.withFlags f g h).hdr = s.hdr := rfl
@[simp] theorem State.withFlags_src (f g h : Bool) : (s.withFlags f g h).src = s.src := rfl
@[simp] theorem State.withFlags_snk (f g h : Bool) : (s.withFlags f g h).snk = s.snk := rfl
@[simp] theorem State.withFlags_inbox (f g h : Bool) : (s.withFlags f g h).inbox = s.inbox := rfl
@[simp] theorem State.withFlags_resp (f g h : Bool) : (s.withFlags f g h).resp = s.resp := rfl

@[simp] theorem State.withTree_cfg (r : Handle) (n : Fin 514) : (s.withTree r n).cfg = s.cfg := rfl
@[simp] theorem State.withTree_dir (r : Handle) (n : Fin 514) : (s.withTree r n).dir = s.dir := rfl
@[simp] theorem State.withTree_buf (r : Handle) (n : Fin 514) : (s.withTree r n).buf = s.buf := rfl
@[simp] theorem State.withTree_cnt (r : Handle) (n : Fin 514) : (s.withTree r n).cnt = s.cnt := rfl
@[simp] theorem State.withTree_spos (r : Handle) (n : Fin 514) : (s.withTree r n).spos = s.spos := rfl
@[simp] theorem State.withTree_status (r : Handle) (n : Fin 514) : (s.withTree r n).status = s.status := rfl
@[simp] theorem State.withTree_faults (r : Handle) (n : Fin 514) : (s.withTree r n).faults = s.faults := rfl
@[simp] theorem State.withTree_res (r : Handle) (n : Fin 514) : (s.withTree r n).res = s.res := rfl
@[simp] theorem State.withTree_ftV (r : Handle) (n : Fin 514) : (s.withTree r n).ftV = s.ftV := rfl
@[simp] theorem State.withTree_treeV (r : Handle) (n : Fin 514) : (s.withTree r n).treeV = s.treeV := rfl
@[simp] theorem State.withTree_ctV (r : Handle) (n : Fin 514) : (s.withTree r n).ctV = s.ctV := rfl
@[simp] theorem State.withTree_root (r : Handle) (n : Fin 514) : (s.withTree r n).root = r := rfl
@[simp] theorem State.withTree_ncnt (r : Handle) (n : Fin 514) : (s.withTree r n).ncnt = n := rfl
@[simp] theorem State.withTree_ft (r : Handle) (n : Fin 514) : (s.withTree r n).ft = s.ft := rfl
@[simp] theorem State.withTree_node (r : Handle) (n : Fin 514) : (s.withTree r n).node = s.node := rfl
@[simp] theorem State.withTree_ct (r : Handle) (n : Fin 514) : (s.withTree r n).ct = s.ct := rfl
@[simp] theorem State.withTree_hdr (r : Handle) (n : Fin 514) : (s.withTree r n).hdr = s.hdr := rfl
@[simp] theorem State.withTree_src (r : Handle) (n : Fin 514) : (s.withTree r n).src = s.src := rfl
@[simp] theorem State.withTree_snk (r : Handle) (n : Fin 514) : (s.withTree r n).snk = s.snk := rfl
@[simp] theorem State.withTree_inbox (r : Handle) (n : Fin 514) : (s.withTree r n).inbox = s.inbox := rfl
@[simp] theorem State.withTree_resp (r : Handle) (n : Fin 514) : (s.withTree r n).resp = s.resp := rfl

@[simp] theorem State.withFt_cfg (f : Vector (Option Nat) 256) : (s.withFt f).cfg = s.cfg := rfl
@[simp] theorem State.withFt_dir (f : Vector (Option Nat) 256) : (s.withFt f).dir = s.dir := rfl
@[simp] theorem State.withFt_buf (f : Vector (Option Nat) 256) : (s.withFt f).buf = s.buf := rfl
@[simp] theorem State.withFt_cnt (f : Vector (Option Nat) 256) : (s.withFt f).cnt = s.cnt := rfl
@[simp] theorem State.withFt_spos (f : Vector (Option Nat) 256) : (s.withFt f).spos = s.spos := rfl
@[simp] theorem State.withFt_status (f : Vector (Option Nat) 256) : (s.withFt f).status = s.status := rfl
@[simp] theorem State.withFt_faults (f : Vector (Option Nat) 256) : (s.withFt f).faults = s.faults := rfl
@[simp] theorem State.withFt_res (f : Vector (Option Nat) 256) : (s.withFt f).res = s.res := rfl
@[simp] theorem State.withFt_ftV (f : Vector (Option Nat) 256) : (s.withFt f).ftV = s.ftV := rfl
@[simp] theorem State.withFt_treeV (f : Vector (Option Nat) 256) : (s.withFt f).treeV = s.treeV := rfl
@[simp] theorem State.withFt_ctV (f : Vector (Option Nat) 256) : (s.withFt f).ctV = s.ctV := rfl
@[simp] theorem State.withFt_root (f : Vector (Option Nat) 256) : (s.withFt f).root = s.root := rfl
@[simp] theorem State.withFt_ncnt (f : Vector (Option Nat) 256) : (s.withFt f).ncnt = s.ncnt := rfl
@[simp] theorem State.withFt_ft (f : Vector (Option Nat) 256) : (s.withFt f).ft = f := rfl
@[simp] theorem State.withFt_node (f : Vector (Option Nat) 256) : (s.withFt f).node = s.node := rfl
@[simp] theorem State.withFt_ct (f : Vector (Option Nat) 256) : (s.withFt f).ct = s.ct := rfl
@[simp] theorem State.withFt_hdr (f : Vector (Option Nat) 256) : (s.withFt f).hdr = s.hdr := rfl
@[simp] theorem State.withFt_src (f : Vector (Option Nat) 256) : (s.withFt f).src = s.src := rfl
@[simp] theorem State.withFt_snk (f : Vector (Option Nat) 256) : (s.withFt f).snk = s.snk := rfl
@[simp] theorem State.withFt_inbox (f : Vector (Option Nat) 256) : (s.withFt f).inbox = s.inbox := rfl
@[simp] theorem State.withFt_resp (f : Vector (Option Nat) 256) : (s.withFt f).resp = s.resp := rfl

@[simp] theorem State.withNode_cfg (f : Vector (Option Node) 513) : (s.withNode f).cfg = s.cfg := rfl
@[simp] theorem State.withNode_dir (f : Vector (Option Node) 513) : (s.withNode f).dir = s.dir := rfl
@[simp] theorem State.withNode_buf (f : Vector (Option Node) 513) : (s.withNode f).buf = s.buf := rfl
@[simp] theorem State.withNode_cnt (f : Vector (Option Node) 513) : (s.withNode f).cnt = s.cnt := rfl
@[simp] theorem State.withNode_spos (f : Vector (Option Node) 513) : (s.withNode f).spos = s.spos := rfl
@[simp] theorem State.withNode_status (f : Vector (Option Node) 513) : (s.withNode f).status = s.status := rfl
@[simp] theorem State.withNode_faults (f : Vector (Option Node) 513) : (s.withNode f).faults = s.faults := rfl
@[simp] theorem State.withNode_res (f : Vector (Option Node) 513) : (s.withNode f).res = s.res := rfl
@[simp] theorem State.withNode_ftV (f : Vector (Option Node) 513) : (s.withNode f).ftV = s.ftV := rfl
@[simp] theorem State.withNode_treeV (f : Vector (Option Node) 513) : (s.withNode f).treeV = s.treeV := rfl
@[simp] theorem State.withNode_ctV (f : Vector (Option Node) 513) : (s.withNode f).ctV = s.ctV := rfl
@[simp] theorem State.withNode_root (f : Vector (Option Node) 513) : (s.withNode f).root = s.root := rfl
@[simp] theorem State.withNode_ncnt (f : Vector (Option Node) 513) : (s.withNode f).ncnt = s.ncnt := rfl
@[simp] theorem State.withNode_ft (f : Vector (Option Node) 513) : (s.withNode f).ft = s.ft := rfl
@[simp] theorem State.withNode_node (f : Vector (Option Node) 513) : (s.withNode f).node = f := rfl
@[simp] theorem State.withNode_ct (f : Vector (Option Node) 513) : (s.withNode f).ct = s.ct := rfl
@[simp] theorem State.withNode_hdr (f : Vector (Option Node) 513) : (s.withNode f).hdr = s.hdr := rfl
@[simp] theorem State.withNode_src (f : Vector (Option Node) 513) : (s.withNode f).src = s.src := rfl
@[simp] theorem State.withNode_snk (f : Vector (Option Node) 513) : (s.withNode f).snk = s.snk := rfl
@[simp] theorem State.withNode_inbox (f : Vector (Option Node) 513) : (s.withNode f).inbox = s.inbox := rfl
@[simp] theorem State.withNode_resp (f : Vector (Option Node) 513) : (s.withNode f).resp = s.resp := rfl

@[simp] theorem State.withCt_cfg (f : Vector (Option CodeEntry) 257) : (s.withCt f).cfg = s.cfg := rfl
@[simp] theorem State.withCt_dir (f : Vector (Option CodeEntry) 257) : (s.withCt f).dir = s.dir := rfl
@[simp] theorem State.withCt_buf (f : Vector (Option CodeEntry) 257) : (s.withCt f).buf = s.buf := rfl
@[simp] theorem State.withCt_cnt (f : Vector (Option CodeEntry) 257) : (s.withCt f).cnt = s.cnt := rfl
@[simp] theorem State.withCt_spos (f : Vector (Option CodeEntry) 257) : (s.withCt f).spos = s.spos := rfl
@[simp] theorem State.withCt_status (f : Vector (Option CodeEntry) 257) : (s.withCt f).status = s.status := rfl
@[simp] theorem State.withCt_faults (f : Vector (Option CodeEntry) 257) : (s.withCt f).faults = s.faults := rfl
@[simp] theorem State.withCt_res (f : Vector (Option CodeEntry) 257) : (s.withCt f).res = s.res := rfl
@[simp] theorem State.withCt_ftV (f : Vector (Option CodeEntry) 257) : (s.withCt f).ftV = s.ftV := rfl
@[simp] theorem State.withCt_treeV (f : Vector (Option CodeEntry) 257) : (s.withCt f).treeV = s.treeV := rfl
@[simp] theorem State.withCt_ctV (f : Vector (Option CodeEntry) 257) : (s.withCt f).ctV = s.ctV := rfl
@[simp] theorem State.withCt_root (f : Vector (Option CodeEntry) 257) : (s.withCt f).root = s.root := rfl
@[simp] theorem State.withCt_ncnt (f : Vector (Option CodeEntry) 257) : (s.withCt f).ncnt = s.ncnt := rfl
@[simp] theorem State.withCt_ft (f : Vector (Option CodeEntry) 257) : (s.withCt f).ft = s.ft := rfl
@[simp] theorem State.withCt_node (f : Vector (Option CodeEntry) 257) : (s.withCt f).node = s.node := rfl
@[simp] theorem State.withCt_ct (f : Vector (Option CodeEntry) 257) : (s.withCt f).ct = f := rfl
@[simp] theorem State.withCt_hdr (f : Vector (Option CodeEntry) 257) : (s.withCt f).hdr = s.hdr := rfl
@[simp] theorem State.withCt_src (f : Vector (Option CodeEntry) 257) : (s.withCt f).src = s.src := rfl
@[simp] theorem State.withCt_snk (f : Vector (Option CodeEntry) 257) : (s.withCt f).snk = s.snk := rfl
@[simp] theorem State.withCt_inbox (f : Vector (Option CodeEntry) 257) : (s.withCt f).inbox = s.inbox := rfl
@[simp] theorem State.withCt_resp (f : Vector (Option CodeEntry) 257) : (s.withCt f).resp = s.resp := rfl

@[simp] theorem State.withHdr_cfg (p : Option HeaderParse) : (s.withHdr p).cfg = s.cfg := rfl
@[simp] theorem State.withHdr_dir (p : Option HeaderParse) : (s.withHdr p).dir = s.dir := rfl
@[simp] theorem State.withHdr_buf (p : Option HeaderParse) : (s.withHdr p).buf = s.buf := rfl
@[simp] theorem State.withHdr_cnt (p : Option HeaderParse) : (s.withHdr p).cnt = s.cnt := rfl
@[simp] theorem State.withHdr_spos (p : Option HeaderParse) : (s.withHdr p).spos = s.spos := rfl
@[simp] theorem State.withHdr_status (p : Option HeaderParse) : (s.withHdr p).status = s.status := rfl
@[simp] theorem State.withHdr_faults (p : Option HeaderParse) : (s.withHdr p).faults = s.faults := rfl
@[simp] theorem State.withHdr_res (p : Option HeaderParse) : (s.withHdr p).res = s.res := rfl
@[simp] theorem State.withHdr_ftV (p : Option HeaderParse) : (s.withHdr p).ftV = s.ftV := rfl
@[simp] theorem State.withHdr_treeV (p : Option HeaderParse) : (s.withHdr p).treeV = s.treeV := rfl
@[simp] theorem State.withHdr_ctV (p : Option HeaderParse) : (s.withHdr p).ctV = s.ctV := rfl
@[simp] theorem State.withHdr_root (p : Option HeaderParse) : (s.withHdr p).root = s.root := rfl
@[simp] theorem State.withHdr_ncnt (p : Option HeaderParse) : (s.withHdr p).ncnt = s.ncnt := rfl
@[simp] theorem State.withHdr_ft (p : Option HeaderParse) : (s.withHdr p).ft = s.ft := rfl
@[simp] theorem State.withHdr_node (p : Option HeaderParse) : (s.withHdr p).node = s.node := rfl
@[simp] theorem State.withHdr_ct (p : Option HeaderParse) : (s.withHdr p).ct = s.ct := rfl
@[simp] theorem State.withHdr_hdr (p : Option HeaderParse) : (s.withHdr p).hdr = p := rfl
@[simp] theorem State.withHdr_src (p : Option HeaderParse) : (s.withHdr p).src = s.src := rfl
@[simp] theorem State.withHdr_snk (p : Option HeaderParse) : (s.withHdr p).snk = s.snk := rfl
@[simp] theorem State.withHdr_inbox (p : Option HeaderParse) : (s.withHdr p).inbox = s.inbox := rfl
@[simp] theorem State.withHdr_resp (p : Option HeaderParse) : (s.withHdr p).resp = s.resp := rfl

@[simp] theorem State.withInbox_cfg (l : List HostAct) : (s.withInbox l).cfg = s.cfg := rfl
@[simp] theorem State.withInbox_dir (l : List HostAct) : (s.withInbox l).dir = s.dir := rfl
@[simp] theorem State.withInbox_buf (l : List HostAct) : (s.withInbox l).buf = s.buf := rfl
@[simp] theorem State.withInbox_cnt (l : List HostAct) : (s.withInbox l).cnt = s.cnt := rfl
@[simp] theorem State.withInbox_spos (l : List HostAct) : (s.withInbox l).spos = s.spos := rfl
@[simp] theorem State.withInbox_status (l : List HostAct) : (s.withInbox l).status = s.status := rfl
@[simp] theorem State.withInbox_faults (l : List HostAct) : (s.withInbox l).faults = s.faults := rfl
@[simp] theorem State.withInbox_res (l : List HostAct) : (s.withInbox l).res = s.res := rfl
@[simp] theorem State.withInbox_ftV (l : List HostAct) : (s.withInbox l).ftV = s.ftV := rfl
@[simp] theorem State.withInbox_treeV (l : List HostAct) : (s.withInbox l).treeV = s.treeV := rfl
@[simp] theorem State.withInbox_ctV (l : List HostAct) : (s.withInbox l).ctV = s.ctV := rfl
@[simp] theorem State.withInbox_root (l : List HostAct) : (s.withInbox l).root = s.root := rfl
@[simp] theorem State.withInbox_ncnt (l : List HostAct) : (s.withInbox l).ncnt = s.ncnt := rfl
@[simp] theorem State.withInbox_ft (l : List HostAct) : (s.withInbox l).ft = s.ft := rfl
@[simp] theorem State.withInbox_node (l : List HostAct) : (s.withInbox l).node = s.node := rfl
@[simp] theorem State.withInbox_ct (l : List HostAct) : (s.withInbox l).ct = s.ct := rfl
@[simp] theorem State.withInbox_hdr (l : List HostAct) : (s.withInbox l).hdr = s.hdr := rfl
@[simp] theorem State.withInbox_src (l : List HostAct) : (s.withInbox l).src = s.src := rfl
@[simp] theorem State.withInbox_snk (l : List HostAct) : (s.withInbox l).snk = s.snk := rfl
@[simp] theorem State.withInbox_inbox (l : List HostAct) : (s.withInbox l).inbox = l := rfl
@[simp] theorem State.withInbox_resp (l : List HostAct) : (s.withInbox l).resp = s.resp := rfl

@[simp] theorem State.withEnd_cfg (st : Status) (f : BitVec 8) (r : Sym) (w : Word) : (s.withEnd st f r w).cfg = s.cfg := rfl
@[simp] theorem State.withEnd_dir (st : Status) (f : BitVec 8) (r : Sym) (w : Word) : (s.withEnd st f r w).dir = s.dir := rfl
@[simp] theorem State.withEnd_buf (st : Status) (f : BitVec 8) (r : Sym) (w : Word) : (s.withEnd st f r w).buf = s.buf := rfl
@[simp] theorem State.withEnd_cnt (st : Status) (f : BitVec 8) (r : Sym) (w : Word) : (s.withEnd st f r w).cnt = s.cnt := rfl
@[simp] theorem State.withEnd_spos (st : Status) (f : BitVec 8) (r : Sym) (w : Word) : (s.withEnd st f r w).spos = s.spos := rfl
@[simp] theorem State.withEnd_status (st : Status) (f : BitVec 8) (r : Sym) (w : Word) : (s.withEnd st f r w).status = st := rfl
@[simp] theorem State.withEnd_faults (st : Status) (f : BitVec 8) (r : Sym) (w : Word) : (s.withEnd st f r w).faults = f := rfl
@[simp] theorem State.withEnd_res (st : Status) (f : BitVec 8) (r : Sym) (w : Word) : (s.withEnd st f r w).res = r := rfl
@[simp] theorem State.withEnd_ftV (st : Status) (f : BitVec 8) (r : Sym) (w : Word) : (s.withEnd st f r w).ftV = s.ftV := rfl
@[simp] theorem State.withEnd_treeV (st : Status) (f : BitVec 8) (r : Sym) (w : Word) : (s.withEnd st f r w).treeV = s.treeV := rfl
@[simp] theorem State.withEnd_ctV (st : Status) (f : BitVec 8) (r : Sym) (w : Word) : (s.withEnd st f r w).ctV = s.ctV := rfl
@[simp] theorem State.withEnd_root (st : Status) (f : BitVec 8) (r : Sym) (w : Word) : (s.withEnd st f r w).root = s.root := rfl
@[simp] theorem State.withEnd_ncnt (st : Status) (f : BitVec 8) (r : Sym) (w : Word) : (s.withEnd st f r w).ncnt = s.ncnt := rfl
@[simp] theorem State.withEnd_ft (st : Status) (f : BitVec 8) (r : Sym) (w : Word) : (s.withEnd st f r w).ft = s.ft := rfl
@[simp] theorem State.withEnd_node (st : Status) (f : BitVec 8) (r : Sym) (w : Word) : (s.withEnd st f r w).node = s.node := rfl
@[simp] theorem State.withEnd_ct (st : Status) (f : BitVec 8) (r : Sym) (w : Word) : (s.withEnd st f r w).ct = s.ct := rfl
@[simp] theorem State.withEnd_hdr (st : Status) (f : BitVec 8) (r : Sym) (w : Word) : (s.withEnd st f r w).hdr = s.hdr := rfl
@[simp] theorem State.withEnd_src (st : Status) (f : BitVec 8) (r : Sym) (w : Word) : (s.withEnd st f r w).src = s.src := rfl
@[simp] theorem State.withEnd_snk (st : Status) (f : BitVec 8) (r : Sym) (w : Word) : (s.withEnd st f r w).snk = s.snk := rfl
@[simp] theorem State.withEnd_inbox (st : Status) (f : BitVec 8) (r : Sym) (w : Word) : (s.withEnd st f r w).inbox = s.inbox := rfl
@[simp] theorem State.withEnd_resp (st : Status) (f : BitVec 8) (r : Sym) (w : Word) : (s.withEnd st f r w).resp = s.resp ++ [w] := rfl

end Sys2Proof.Machine
end

