-- ==== Sys2Proof/Laws/Ops.lean ====
section
/-! SUPPORT. What each shared operation can do, said once: how an operation is put together from others, the ways each
primitive can end, and the part of the state each family of primitives leaves alone. -/

namespace Sys2Proof.Machine

/-! ## Operations in a row -/

@[simp] theorem Res.bind_ok {α β : Type} (a : α) (s : State) (k : α → State → Res β) : (Res.ok a s).bind k = k a s := rfl
@[simp] theorem Res.bind_raise {α β : Type} (f : Failure) (s : State) (k : α → State → Res β) :
    (Res.raise f s : Res α).bind k = .raise f s := rfl
@[simp] theorem Res.bind_stuck {α β : Type} (e : Fault) (k : α → State → Res β) : (Res.stuck e : Res α).bind k = .stuck e := rfl

@[simp] theorem Res.onEnd_ok {α : Type} (a : α) (s : State) (f : Failure) : (Res.ok a s).onEnd f = .ok a s := rfl
@[simp] theorem Res.onEnd_raise {α : Type} (g f : Failure) (s : State) :
    (Res.raise g s : Res α).onEnd f = .raise (if g = .endOfStream then f else g) s := rfl
@[simp] theorem Res.onEnd_stuck {α : Type} (e : Fault) (f : Failure) : (Res.stuck e : Res α).onEnd f = .stuck e := rfl

@[simp] theorem Res.finally_ok {α : Type} (a : α) (s : State) (g : State → State) : (Res.ok a s).finally g = .ok a (g s) := rfl
@[simp] theorem Res.finally_raise {α : Type} (f : Failure) (s : State) (g : State → State) :
    (Res.raise f s : Res α).finally g = .raise f (g s) := rfl
@[simp] theorem Res.finally_stuck {α : Type} (e : Fault) (g : State → State) : (Res.stuck e : Res α).finally g = .stuck e := rfl

theorem Res.bind_eq_ok {α β : Type} {r : Res α} {k : α → State → Res β} {b : β} {t : State} :
    r.bind k = .ok b t ↔ ∃ a u, r = .ok a u ∧ k a u = .ok b t := by
  cases r <;> simp [Res.bind]

theorem Res.bind_eq_raise {α β : Type} {r : Res α} {k : α → State → Res β} {f : Failure} {t : State} :
    r.bind k = .raise f t ↔ r = .raise f t ∨ ∃ a u, r = .ok a u ∧ k a u = .raise f t := by
  cases r <;> simp [Res.bind]

theorem Res.bind_eq_stuck {α β : Type} {r : Res α} {k : α → State → Res β} {e : Fault} :
    r.bind k = .stuck e ↔ r = .stuck e ∨ ∃ a u, r = .ok a u ∧ k a u = .stuck e := by
  cases r <;> simp [Res.bind]

/-- A command's end, taken apart: the next state is `endOk` of where its body completed, or `endFail` of where it raised. -/
theorem finish_eq_next {r : Res Sym} {t : State} :
    finish r = .next t ↔ (∃ v u, r = .ok v u ∧ t = endOk v u) ∨ (∃ f u, r = .raise f u ∧ t = endFail f u) := by
  cases r <;> simp [finish, eq_comm]

theorem finishUnit_eq_next {r : Res Unit} {t : State} :
    finishUnit r = .next t ↔ (∃ u, r = .ok () u ∧ t = endOk ⟨0, by decide⟩ u) ∨ (∃ f u, r = .raise f u ∧ t = endFail f u) := by
  cases r <;> simp [finishUnit, finish, eq_comm]

/-- A command's body is what stops: the outcome is a fault exactly when the body is stuck. -/
theorem finish_eq_fault {r : Res Sym} {e : Fault} : finish r = .fault e ↔ r = .stuck e := by
  cases r <;> simp [finish]

theorem finishUnit_eq_fault {r : Res Unit} {e : Fault} : finishUnit r = .fault e ↔ r = .stuck e := by
  cases r <;> simp [finishUnit, finish]

theorem finish_ne_refused {r : Res Sym} {e : Refusal} : finish r ≠ .refused e := by
  cases r <;> simp [finish]

theorem finishUnit_ne_refused {r : Res Unit} {e : Refusal} : finishUnit r ≠ .refused e := finish_ne_refused

/-! ## What holds of every state an operation can end in -/

/-- `P` holds of the state the operation ends in, however it ends (a stuck operation ends in none). -/
def Res.All {α : Type} (P : State → Prop) : Res α → Prop
  | .ok _ s    => P s
  | .raise _ s => P s
  | .stuck _   => True

theorem Res.All.bind {α β : Type} {P Q : State → Prop} {r : Res α} {k : α → State → Res β}
    (h : r.All P) (hPQ : ∀ s, P s → Q s) (hk : ∀ a s, r = .ok a s → P s → (k a s).All Q) : (r.bind k).All Q := by
  cases r with
  | ok a s => exact hk a s rfl h
  | raise f s => exact hPQ s h
  | stuck e => trivial

theorem Res.All.imp {α : Type} {P Q : State → Prop} {r : Res α} (h : r.All P) (hPQ : ∀ s, P s → Q s) : r.All Q := by
  cases r with
  | ok a s => exact hPQ s h
  | raise f s => exact hPQ s h
  | stuck e => trivial

theorem Res.All.onEnd {α : Type} {P : State → Prop} {r : Res α} (f : Failure) (h : r.All P) : (r.onEnd f).All P := by
  cases r <;> exact h

theorem Res.All.finally {α : Type} {P Q : State → Prop} {r : Res α} {g : State → State}
    (h : r.All P) (hg : ∀ s, P s → Q (g s)) : (r.finally g).All Q := by
  cases r with
  | ok a s => exact hg s h
  | raise f s => exact hg s h
  | stuck e => trivial

/-! ## The ways a primitive can end -/

/-- `SrcPull()`: `IoError`, or the end, with nothing changed; or the byte at `SPOS`, which moves on by one (R52). -/
theorem srcPull_cases (s : State) :
    (srcPull s = .raise .ioError s ∧ (s.src.present = false ∨ s.src.errAt = some s.spos)) ∨
    (srcPull s = .ok none s ∧ s.src.present = true ∧ s.src.errAt ≠ some s.spos ∧ s.src.data.length ≤ s.spos) ∨
    (∃ b, srcPull s = .ok (some b) (s.withSpos (s.spos + 1)) ∧ s.src.present = true ∧ s.src.errAt ≠ some s.spos ∧
      s.src.data[s.spos]? = some b) := by
  unfold srcPull
  by_cases hp : s.src.present = false
  · exact .inl ⟨by simp [hp], .inl hp⟩
  · by_cases he : s.src.errAt = some s.spos
    · exact .inl ⟨by simp [hp, he], .inr he⟩
    · have hp' : s.src.present = true := by simpa using hp
      cases hb : s.src.data[s.spos]? with
      | none => exact .inr (.inl ⟨by simp [hp', he], hp', he, by simpa using hb⟩)
      | some b => exact .inr (.inr ⟨b, by simp [hp', he], hp', he, rfl⟩)

/-- `SnkPush(b)`: `IoError` with nothing changed, or the byte at the end of the sink (R54). -/
theorem snkPush_cases (b : Byte) (s : State) :
    (snkPush b s = .raise .ioError s ∧ (s.snk.present = false ∨ s.snk.cap = some s.snk.data.length)) ∨
    (snkPush b s = .ok () (s.withSnkData (s.snk.data ++ [b])) ∧ s.snk.present = true ∧
      s.snk.cap ≠ some s.snk.data.length) := by
  unfold snkPush
  by_cases hp : s.snk.present = false
  · exact .inl ⟨by simp [hp], .inl hp⟩
  · by_cases hc : s.snk.cap = some s.snk.data.length
    · exact .inl ⟨by simp [hp, hc], .inr hc⟩
    · have hp' : s.snk.present = true := by simpa using hp
      exact .inr ⟨by simp [hp', hc], hp', hc⟩

/-- `ReadBit()`: a failure with nothing changed, or one bit returned, from the buffer or from a byte pulled for it (R111). -/
theorem readBit_cases (s : State) :
    (∃ f, readBit s = .raise f s ∧ (f = .invalidDirection ∨ f = .ioError ∨ f = .endOfStream)) ∨
    (s.dir = .read ∧ 0 < s.cnt.val ∧ readBit s = takeBit s) ∨
    (s.dir = .read ∧ s.cnt.val = 0 ∧ ∃ b, s.src.data[s.spos]? = some b ∧
      readBit s = takeBit ((s.withSpos (s.spos + 1)).withBuf b ⟨8, by decide⟩)) := by
  unfold readBit
  by_cases hd : s.dir = .read
  · by_cases hc : s.cnt.val = 0
    · rcases srcPull_cases s with ⟨h, -⟩ | ⟨h, -⟩ | ⟨b, h, -, -, hb⟩
      · exact .inl ⟨.ioError, by simp [hd, hc, h], by simp⟩
      · exact .inl ⟨.endOfStream, by simp [hd, hc, h], by simp⟩
      · exact .inr (.inr ⟨hd, hc, b, hb, by simp [hd, hc, h]⟩)
    · exact .inr (.inl ⟨hd, by omega, by simp [hd, hc]⟩)
  · exact .inl ⟨.invalidDirection, by simp [hd], by simp⟩

/-- `WriteBit(b)` on a channel that holds at most seven bits: `InvalidDirection` with nothing changed; one more bit in the
buffer; or the eighth bit, the buffer emptied, and its byte pushed or lost (R113). -/
theorem writeBit_cases (b : Bool) (s : State) (h7 : s.cnt.val ≤ 7) :
    (s.dir ≠ .write ∧ writeBit b s = .raise .invalidDirection s) ∨
    (s.dir = .write ∧ ∃ h : s.cnt.val + 1 < 9, s.cnt.val < 7 ∧
      writeBit b s = .ok () (s.withBuf (setBit s.buf (7 - s.cnt.val) b) ⟨s.cnt.val + 1, h⟩)) ∨
    (s.dir = .write ∧ s.cnt.val = 7 ∧
      writeBit b s = snkPush (setBit s.buf 0 b) (s.withBuf 0#8 ⟨0, by decide⟩)) := by
  unfold writeBit
  by_cases hd : s.dir = .write
  · have h8 : s.cnt.val < 8 := by omega
    by_cases hc : s.cnt.val + 1 = 8
    · have hc7 : s.cnt.val = 7 := by omega
      exact .inr (.inr ⟨hd, hc7, by simp [hd, hc7]⟩)
    · exact .inr (.inl ⟨hd, by omega, by omega, by simp [hd, h8, hc]⟩)
  · exact .inl ⟨hd, by simp [hd]⟩

/-- `alloc(e)`: the entry at `NCNT`, which goes up by one; or the arena is full (R30). -/
theorem alloc_cases (e : Node) (s : State) :
    (513 ≤ s.ncnt.val ∧ alloc e s = .stuck .arenaFull) ∨
    (∃ h : s.ncnt.val < 513, alloc e s = .ok ⟨s.ncnt.val, h⟩
      ((writeNode ⟨s.ncnt.val, h⟩ e s).withTree s.root ⟨s.ncnt.val + 1, by omega⟩)) := by
  unfold alloc
  by_cases h : s.ncnt.val < 513
  · exact .inr ⟨h, by simp [h]⟩
  · exact .inl ⟨by omega, by simp [h]⟩

/-! ## What reading through the channel leaves alone -/

/-- Only `BC.BUF`, `BC.CNT` and `SPOS` may differ. -/
def ReadFrame (s t : State) : Prop := t = { s with buf := t.buf, cnt := t.cnt, spos := t.spos }

theorem ReadFrame.refl (s : State) : ReadFrame s s := rfl

theorem ReadFrame.trans {s t u : State} (h : ReadFrame s t) (k : ReadFrame t u) : ReadFrame s u := by
  unfold ReadFrame at *
  rw [k, h]

theorem readBit_frame (s : State) : (readBit s).All (ReadFrame s) := by
  rcases readBit_cases s with ⟨f, h, -⟩ | ⟨-, -, h⟩ | ⟨-, -, b, -, h⟩ <;> rw [h]
  · exact ReadFrame.refl s
  · exact rfl
  · exact rfl

theorem readBits_frame (n : Nat) (v : Byte) (s : State) : (readBits n v s).All (ReadFrame s) := by
  induction n generalizing v s with
  | zero => exact ReadFrame.refl s
  | succ n ih =>
    exact (readBit_frame s).bind (fun _ h => h) fun b t _ h => (ih (setBit v n b) t).imp fun u k => h.trans k

theorem readByte_frame (s : State) : (readByte s).All (ReadFrame s) := readBits_frame 8 0#8 s

theorem readToken_frame (s : State) : (readToken s).All (ReadFrame s) := by
  refine (readBit_frame s).bind (fun _ h => h) fun f t _ h => ?_
  cases f
  · exact h
  · refine (readBit_frame t).bind (fun _ k => h.trans k) fun g u _ k => ?_
    cases g
    · exact (readByte_frame u).bind (fun _ l => (h.trans k).trans l) fun b v _ l => (h.trans k).trans l
    · exact h.trans k

theorem getWalk_frame (n : Nat) (h : NodeIx) (s : State) : (getWalk n h s).All (ReadFrame s) := by
  induction n generalizing h s with
  | zero => trivial
  | succ n ih =>
    unfold getWalk readNode
    cases s.node[h.val] with
    | none => trivial
    | some e =>
      simp only [Res.bind_ok]
      by_cases hl : e.leaf
      · simp only [hl, if_true]; exact ReadFrame.refl s
      · simp only [hl]
        refine ((readBit_frame s).onEnd .truncatedStream).bind (fun _ k => k) fun b t _ k => ?_
        unfold follow
        cases (if b then e.right else e.left) with
        | none => trivial
        | some g => exact (ih g t).imp fun u l => k.trans l

/-! ## What writing through the channel leaves alone -/

/-- Only `BC.BUF`, `BC.CNT` and the sink's bytes may differ. -/
def WriteFrame (s t : State) : Prop := t = { s with buf := t.buf, cnt := t.cnt, snk := { s.snk with data := t.snk.data } }

theorem WriteFrame.refl (s : State) : WriteFrame s s := rfl

theorem WriteFrame.trans {s t u : State} (h : WriteFrame s t) (k : WriteFrame t u) : WriteFrame s u := by
  unfold WriteFrame at *
  rw [k, h]

theorem snkPush_frame (b : Byte) (s : State) : (snkPush b s).All (WriteFrame s) := by
  rcases snkPush_cases b s with ⟨h, -⟩ | ⟨h, -⟩ <;> rw [h]
  · exact WriteFrame.refl s
  · exact rfl

theorem writeBit_frame (b : Bool) (s : State) : (writeBit b s).All (WriteFrame s) := by
  by_cases h7 : s.cnt.val ≤ 7
  · rcases writeBit_cases b s h7 with ⟨-, h⟩ | ⟨-, _, -, h⟩ | ⟨-, -, h⟩ <;> rw [h]
    · exact WriteFrame.refl s
    · exact rfl
    · exact (snkPush_frame _ _).imp fun t k => WriteFrame.trans (t := s.withBuf 0#8 ⟨0, by decide⟩) rfl k
  · unfold writeBit
    have h8 : ¬ s.cnt.val < 8 := by omega
    by_cases hd : s.dir = .write
    · simp [hd, h8, Res.All]
    · simp only [hd, ne_eq, not_false_eq_true, if_true]
      exact WriteFrame.refl s

theorem writeBits_frame (l : List Bool) (s : State) : (writeBits l s).All (WriteFrame s) := by
  induction l generalizing s with
  | nil => exact WriteFrame.refl s
  | cons b l ih => exact (writeBit_frame b s).bind (fun _ h => h) fun _ t _ h => (ih t).imp fun u k => h.trans k

theorem flush_frame (s : State) : (flush s).All (WriteFrame s) := by
  unfold flush
  by_cases h : 0 < s.cnt.val
  · simp only [h, if_true]
    exact (snkPush_frame _ _).imp fun t k => WriteFrame.trans (t := s.withBuf 0#8 ⟨0, by decide⟩) rfl k
  · simp only [h, if_false]
    exact WriteFrame.refl s

theorem serWalk_frame (n : Nat) (h : NodeIx) (s : State) : (serWalk n h s).All (WriteFrame s) := by
  induction n generalizing h s with
  | zero => trivial
  | succ n ih =>
    unfold serWalk readNode
    cases s.node[h.val] with
    | none => trivial
    | some e =>
      simp only [Res.bind_ok]
      by_cases hl : e.leaf
      · simp only [hl, if_true]; exact writeBits_frame _ s
      · simp only [hl]
        refine (writeBits_frame _ s).bind (fun _ k => k) fun _ t _ k => ?_
        unfold follow
        cases e.left with
        | none => trivial
        | some l =>
          refine (ih l t).bind (fun _ m => k.trans m) fun _ u _ m => ?_
          cases e.right with
          | none => trivial
          | some r => exact (ih r u).imp fun _ w => (k.trans m).trans w

theorem putCode_frame (x : Sym) (s : State) : (putCode x s).All (WriteFrame s) := by
  unfold putCode readCt
  cases s.ct[x.val] with
  | none => trivial
  | some e => exact writeBits_frame e.code s

end Sys2Proof.Machine
end

