-- ==== Sys2Proof/Laws/Arena.lean ====
section
/-! SUPPORT. What the returns of `des()` do to the arena, said once (44_treecodec.md R171). -/

namespace Sys2Proof.Machine

@[simp] theorem linkRights_nil (c : NodeIx) (arena : Vector (Option Node) 513) : linkRights c [] arena = arena := rfl
@[simp] theorem linkRights_cons (c h : NodeIx) (hs : List NodeIx) (arena : Vector (Option Node) 513) :
    linkRights c (h :: hs) arena =
      linkRights h hs (arena.set h.val ((arena[h.val]'h.isLt).map fun e => { e with right := some c }) h.isLt) := rfl

theorem setLeft_eq (h c : NodeIx) (s : State) (e : Node) (he : s.node[h.val]'h.isLt = some e) :
    setLeft h c s = .ok () (s.withNode (s.node.set h.val (some { e with left := some c }) h.isLt)) := by
  simp [setLeft, readNode, writeNode, he]

theorem setRight_eq (h c : NodeIx) (s : State) (e : Node) (he : s.node[h.val]'h.isLt = some e) :
    setRight h c s = .ok () (s.withNode (s.node.set h.val (some { e with right := some c }) h.isLt)) := by
  simp [setRight, readNode, writeNode, he]

/-- A node in use stays in use when an entry in use is written. -/
theorem set_some_ne_none (a : Vector (Option Node) 513) (h g : NodeIx) (e : Node) (hg : a[g.val]'g.isLt ≠ none) :
    (a.set h.val (some e) h.isLt)[g.val]'g.isLt ≠ none := by
  rw [Vector.getElem_set]; split <;> simp_all

/-- The calls that wait for a right child are closed one after another, and the rest of the stack gets the last of them. -/
theorem returnTree_rights (rs : List NodeIx) (st : List Frame) (c : NodeIx) (s : State)
    (hrs : ∀ g ∈ rs, s.node[g.val]'g.isLt ≠ none) :
    returnTree (rs.map .right ++ st) c s = returnTree st (rs.getLastD c) (s.withNode (linkRights c rs s.node)) := by
  induction rs generalizing c s with
  | nil => rfl
  | cons h hs ih =>
    obtain ⟨e, he⟩ := Option.ne_none_iff_exists'.mp (hrs h (by simp))
    have hne : ∀ g ∈ hs, (s.withNode (s.node.set h.val (some { e with right := some c }) h.isLt)).node[g.val]'g.isLt ≠ none :=
      fun g hg => set_some_ne_none s.node h g _ (hrs g (by simp [hg]))
    simp only [List.map_cons, List.cons_append, returnTree, setRight_eq h c s e he, Res.bind_ok, ih h _ hne,
      linkRights_cons, he, Option.map_some]
    cases hs <;> rfl

end Sys2Proof.Machine
end

