-- ==== Sys2Proof/Laws/PerInstr.lean ====
section
/-! SUPPORT. What holds of every instruction as it stands outside CORE, one lemma for each constructor. -/

namespace Sys2Proof.Laws.TableRow

/-- The encoding of an instruction is its row of spec/opcode_table.json: a command's word matches the row of its mnemonic
and no other row (R81: "no word matches two rows"); a token has its row's width and its row's fixed bits (R86). -/
def Statement (i : Instr) : Prop :=
  match encode i with
  | .word w => (opRows.filter (·.matches w)).map (·.mnemonic) = [i.mnemonic]
  | .bits l =>
    match i.token? with
    | some .int       => l = [false]
    | some (.leafb b) => l.length = 10 ∧ l.take 2 = [true, false] ∧ l.drop 2 = byteBits b
    | some .leaft     => l = [true, true]
    | none            => False

theorem openr : Statement .openr := by rfl
theorem openw : Statement .openw := by rfl
theorem rdbit : Statement .rdbit := by rfl
theorem rdbyte : Statement .rdbyte := by rfl
theorem wrbit (b : Bool) : Statement (.wrbit b) := by cases b <;> rfl
theorem wrbyte (v : Byte) : Statement (.wrbyte v) := by
  show (opRows.filter (·.matches (cmdWord 0x06 v))).map (·.mnemonic) = ["WRBYTE"]
  revert v
  decide
theorem close : Statement .close := by rfl
theorem freq : Statement .freq := by rfl
theorem build : Statement .build := by rfl
theorem codes : Statement .codes := by rfl
theorem sertree : Statement .sertree := by rfl
theorem destree : Statement .destree := by rfl
theorem putsym (v : Byte) : Statement (.putsym v) := by
  show (opRows.filter (·.matches (cmdWord 0x18 v))).map (·.mnemonic) = ["PUTSYM"]
  revert v
  decide
theorem putterm : Statement .putterm := by rfl
theorem getsym : Statement .getsym := by rfl
theorem compress : Statement .compress := by rfl
theorem decompress : Statement .decompress := by rfl
theorem int : Statement .int := rfl
theorem leafb (b : Byte) : Statement (.leafb b) := ⟨rfl, rfl, rfl⟩
theorem leaft : Statement .leaft := rfl

/-- The statement for every instruction. -/
theorem all (i : Instr) : Statement i := by
  cases i with
  | openr => exact TableRow.openr
  | openw => exact TableRow.openw
  | rdbit => exact TableRow.rdbit
  | rdbyte => exact TableRow.rdbyte
  | wrbit b => exact TableRow.wrbit b
  | wrbyte v => exact TableRow.wrbyte v
  | close => exact TableRow.close
  | freq => exact TableRow.freq
  | build => exact TableRow.build
  | codes => exact TableRow.codes
  | sertree => exact TableRow.sertree
  | destree => exact TableRow.destree
  | putsym v => exact TableRow.putsym v
  | putterm => exact TableRow.putterm
  | getsym => exact TableRow.getsym
  | compress => exact TableRow.compress
  | decompress => exact TableRow.decompress
  | int => exact TableRow.int
  | leafb b => exact TableRow.leafb b
  | leaft => exact TableRow.leaft

end Sys2Proof.Laws.TableRow
end

