-- ==== Sys2Proof/Machine/Assembler.lean ====
section
/-! DEFINITION. The assembler syntax of the spec's programs and its pseudo-commands (30_encoding.md R93, R94): a line of
text, as a list of characters, and the commands it stands for. -/

namespace Sys2Proof.Machine

/-- A line of a program: one command, a pseudo-command, or nothing but a comment (R93, R94). -/
inductive Line where
  | blank
  | one (i : Instr)
  | wrbits (l : List Bool)
  | rdbits (n : Nat)
  | putstr (l : List Byte)
deriving DecidableEq, Repr

/-- The commands a line stands for (R94). -/
def Line.commands : Line → List Instr
  | .blank    => []
  | .one i    => [i]
  | .wrbits l => l.map .wrbit
  | .rdbits n => List.replicate n .rdbit
  | .putstr l => l.map .putsym

/-- A line run: it stops at the first of its commands that fails (R94). -/
def Line.run (l : Line) (s : State) : Host.Outcome State Fault Refusal := issueUntilFailure l.commands s

/-- A space or a tab. -/
def isBlank (c : Char) : Bool := c.toNat == 32 || c.toNat == 9

def dropBlanks : List Char → List Char
  | []     => []
  | c :: r => if isBlank c then dropBlanks r else c :: r

/-- A word of the line, and what follows it: everything up to a blank or the `;` of a comment. -/
def takeWord : List Char → List Char × List Char
  | []     => ([], [])
  | c :: r => if isBlank c || c.toNat == 59 then ([], c :: r) else (c :: (takeWord r).1, (takeWord r).2)

/-- Nothing follows but blanks and a comment (R93). -/
def lineEnds (r : List Char) : Bool :=
  match dropBlanks r with
  | []     => true
  | c :: _ => c.toNat == 59

/-- A command without operand (R93). -/
def plainMnemonic (w : List Char) : Option Instr :=
  if w = ['O', 'P', 'E', 'N', 'R'] then some .openr
  else if w = ['O', 'P', 'E', 'N', 'W'] then some .openw
  else if w = ['R', 'D', 'B', 'I', 'T'] then some .rdbit
  else if w = ['R', 'D', 'B', 'Y', 'T', 'E'] then some .rdbyte
  else if w = ['C', 'L', 'O', 'S', 'E'] then some .close
  else if w = ['F', 'R', 'E', 'Q'] then some .freq
  else if w = ['B', 'U', 'I', 'L', 'D'] then some .build
  else if w = ['C', 'O', 'D', 'E', 'S'] then some .codes
  else if w = ['S', 'E', 'R', 'T', 'R', 'E', 'E'] then some .sertree
  else if w = ['D', 'E', 'S', 'T', 'R', 'E', 'E'] then some .destree
  else if w = ['P', 'U', 'T', 'T', 'E', 'R', 'M'] then some .putterm
  else if w = ['G', 'E', 'T', 'S', 'Y', 'M'] then some .getsym
  else if w = ['C', 'O', 'M', 'P', 'R', 'E', 'S', 'S'] then some .compress
  else if w = ['D', 'E', 'C', 'O', 'M', 'P', 'R', 'E', 'S', 'S'] then some .decompress
  else none

/-- The value of a hexadecimal digit, in capitals or not. -/
def hexDigit (c : Char) : Option Nat :=
  if 48 ≤ c.toNat ∧ c.toNat ≤ 57 then some (c.toNat - 48)
  else if 65 ≤ c.toNat ∧ c.toNat ≤ 70 then some (c.toNat - 55)
  else if 97 ≤ c.toNat ∧ c.toNat ≤ 102 then some (c.toNat - 87)
  else none

/-- An ASCII character as a byte (R93: `'a'` is 0x61). -/
def asciiByte (c : Char) : Option Byte := if c.toNat < 128 then some (BitVec.ofNat 8 c.toNat) else none

/-- A byte operand: `0x` and two hexadecimal digits, or one ASCII character in single quotes (R93). -/
def byteOperand : List Char → Option (Byte × List Char)
  | a :: b :: c :: r =>
    if a.toNat = 39 ∧ c.toNat = 39 then (asciiByte b).map (·, r)
    else
      match r with
      | d :: r' =>
        if a.toNat = 48 ∧ b.toNat = 120 then
          match hexDigit c, hexDigit d with
          | some h, some l => some (BitVec.ofNat 8 (16 * h + l), r')
          | _, _ => none
        else none
      | [] => none
  | _ => none

/-- A string of `0` and `1` (R94). -/
def bitString : List Char → Option (List Bool)
  | []     => some []
  | c :: r =>
    if c.toNat = 48 then (bitString r).map (false :: ·)
    else if c.toNat = 49 then (bitString r).map (true :: ·)
    else none

/-- A decimal number (R94). -/
def decimal : Nat → List Char → Option Nat
  | n, []     => some n
  | n, c :: r => if 48 ≤ c.toNat ∧ c.toNat ≤ 57 then decimal (10 * n + (c.toNat - 48)) r else none

/-- The characters of a quoted ASCII string after its opening quote (R94), and what follows its closing one. -/
def quoted : List Char → Option (List Byte × List Char)
  | []     => none
  | c :: r =>
    if c.toNat = 34 then some ([], r)
    else
      match asciiByte c, quoted r with
      | some v, some (l, rest) => some (v :: l, rest)
      | _, _ => none

/-- A whole word read as an operand, with nothing after it. -/
def wordOperand (r : List Char) : Option (List Char) :=
  let w := takeWord (dropBlanks r)
  if lineEnds w.2 ∧ w.1 ≠ [] then some w.1 else none

/-- One line of a program (R93, R94); `none` when the line is not of the syntax. -/
def assembleLine (line : List Char) : Option Line :=
  if lineEnds line then some .blank
  else
    let w := takeWord (dropBlanks line)
    match plainMnemonic w.1 with
    | some i => if lineEnds w.2 then some (.one i) else none
    | none =>
      if w.1 = ['W', 'R', 'B', 'I', 'T'] then
        match (wordOperand w.2).bind bitString with
        | some [b] => some (.one (.wrbit b))
        | _ => none
      else if w.1 = ['W', 'R', 'B', 'Y', 'T', 'E'] then
        match byteOperand (dropBlanks w.2) with
        | some (v, r) => if lineEnds r then some (.one (.wrbyte v)) else none
        | none => none
      else if w.1 = ['P', 'U', 'T', 'S', 'Y', 'M'] then
        match byteOperand (dropBlanks w.2) with
        | some (v, r) => if lineEnds r then some (.one (.putsym v)) else none
        | none => none
      else if w.1 = ['W', 'R', 'B', 'I', 'T', 'S'] then
        ((wordOperand w.2).bind bitString).map .wrbits
      else if w.1 = ['R', 'D', 'B', 'I', 'T', 'S'] then
        ((wordOperand w.2).bind (decimal 0)).map .rdbits
      else if w.1 = ['P', 'U', 'T', 'S', 'T', 'R'] then
        match dropBlanks w.2 with
        | q :: r =>
          if q.toNat = 34 then
            match quoted r with
            | some (l, rest) => if lineEnds rest then some (.putstr l) else none
            | none => none
          else none
        | [] => none
      else none

end Sys2Proof.Machine
end

