-- ==== Sys2Proof/Tests/Slice0.lean ====
section
/-! SUPPORT. Tests of one step each, their expected results from 95_test_vectors.md (the vector is named at each), smoke
tests of the well-formedness checks, and for each statement with hypotheses a witness that they can be met together. -/

open Sys2Proof Sys2Proof.Machine

set_option maxRecDepth 20000

namespace Sys2Proof.Tests

/-! ## Small states -/

/-- A source of the given bytes and an empty sink, CORE just reset. -/
def given (d : List Byte) : State :=
  { State.reset with src := { present := true, data := d, errAt := none }, snk := { present := true, data := [], cap := none } }

/-- The bytes of `"aaab"` (V1). -/
def aaab : List Byte := [0x61, 0x61, 0x61, 0x62]

/-- The compressed stream of `"aaab"` (V1). -/
def aaabOut : List Byte := [0x39, 0x8A, 0x61, 0xE8]

/-- The frequency table of `"aaab"` (F1) in a state. -/
def withFtV1 (s : State) : State :=
  { writeFt 0x62 1 (writeFt 0x61 3 (s.withFt (Vector.replicate 256 (some 0)))) with ftV := true }

/-- The arena of V1 in a state. -/
def withTreeV1 (s : State) : State :=
  { writeNode 4 (innerNode (some 3) (some 0) 4) (writeNode 3 (innerNode (some 2) (some 1) 1) (writeNode 2 (leafNode TERM 0)
      (writeNode 1 (leafNode 0x62 1) (writeNode 0 (leafNode 0x61 3) s)))) with
    root := some 4, ncnt := 5, treeV := true }

/-- The abstract tree of V1. -/
def treeV1 : Tree := .node (.node (.leaf TERM) (.leaf 0x62)) (.leaf 0x61)

/-- The code table of V1 in a state. -/
def withCtV1 (s : State) : State :=
  { writeCt TERM ⟨true, [false, false]⟩ (writeCt 0x62 ⟨true, [false, true]⟩ (writeCt 0x61 ⟨true, [true]⟩
      (s.withCt (Vector.replicate 257 (some ⟨false, []⟩))))) with ctV := true }

/-- The channel open for reading at the first byte. -/
def reading (s : State) : State := s.withChan .read 0 0

/-- The channel open for writing with nothing written. -/
def writing (s : State) : State := s.withChan .write 0 0

/-- The channel open for writing with `101` written (B4). -/
def writing101 (s : State) : State := s.withChan .write 0xA0 3

/-- A parse in which the root has been read and its left subtree comes next. -/
def parseAtLeft : HeaderParse := { seen := [], nint := 1, stack := [.left 0] }

/-- The state of that parse. -/
def inHeader (s : State) : State :=
  { writeNode 0 (innerNode none none 0) s with ncnt := 1, hdr := some parseAtLeft }

/-- A parse in which the root's left subtree is closed and its right subtree comes next. -/
def atRight (s : State) : State :=
  { writeNode 1 (leafNode TERM 0) (writeNode 0 (innerNode (some 1) none 0) s) with
    ncnt := 2, hdr := some { seen := [TERM], nint := 1, stack := [.right 0] } }

/-- A sink that takes `c` bytes in all. -/
def capped (c : Nat) (s : State) : State := { s with snk := { s.snk with cap := some c } }

/-- A source whose pull at `e` fails. -/
def failingAt (e : Nat) (s : State) : State := { s with src := { s.src with errAt := some e } }

/-- The host presents a word. -/
def presented (w : Word) (s : State) : State := { s with inbox := [.command w] }

/-- A fact about the next state, where there is one. -/
def nextSat (o : Host.Outcome State Fault Refusal) (p : State → Bool) : Bool :=
  match o with
  | .next t    => p t
  | .fault _   => false
  | .refused _ => false

/-! ## Well-formedness checks refuse -/

theorem test_legalWord_refuses_unassigned : legalWord 0x0800 = false ∧ legalWord 0x0000 = false ∧ legalWord 0xFFFF = false := by decide
theorem test_legalWord_refuses_operand : legalWord 0x0101 = false ∧ legalWord 0x0502 = false ∧ legalWord 0x2001 = false := by decide
theorem test_legalWord_accepts : legalWord 0x0501 = true ∧ legalWord 0x06FF = true ∧ legalWord 0x1800 = true := by decide
theorem test_headerWf_refuses_unfinished : headerWf [.int, .leaft] = false ∧ headerWf [.leaft, .leaft] = false := by decide
theorem test_headerWf_refuses_repeated : headerWf [.int, .int, .leaft, .leafb 0x61, .leafb 0x61] = false := by decide
theorem test_headerWf_refuses_no_terminator : headerWf [.int, .leafb 0x61, .leafb 0x62] = false := by decide
theorem test_headerWf_accepts : headerWf [.int, .int, .leaft, .leafb 0x62, .leafb 0x61] = true ∧ headerWf [.leaft] = true := by decide
theorem test_source_refuses_long : Source.legal { cw := 2 } { present := true, data := [1, 2, 3, 4], errAt := none } = false := by decide
theorem test_source_refuses_errAt : Source.legal { cw := 2 } { present := true, data := [1, 2, 3], errAt := some 4 } = false := by decide
theorem test_source_accepts : Source.legal { cw := 2 } { present := true, data := [1, 2, 3], errAt := some 3 } = true := by decide

/-! ## Decoding (30_encoding.md R81, R92; 95_test_vectors.md 2.9) -/

theorem test_decode_illegal : decodeWord 0x1500 = .error .unassignedOpcode ∧ decodeWord 0x05FF = .error .operandNotZero := by
  constructor <;> rfl
theorem test_decode_header_R92 :
    headerBits [.int, .int, .leaft, .leafb 0x62, .leafb 0x61] = streamBits [0x39, 0x8A, 0x61] := by decide
theorem test_decodeToken_takes_its_bits :
    decodeToken [true, false, false, true, true, false, false, false, true, false, true, true]
      = .ok (.leafb 0x62, [true, true]) := by rfl

/-! ## BitChannel (95_test_vectors.md 2.2) -/

theorem test_openr_rewinds_B11 : nextSat (exec .openr ((given [0xFF]).withSpos 1)) (fun t => t.dir = .read ∧ t.spos = 0) := by decide
theorem test_openr_no_source_B20 :
    nextSat (exec .openr { given [] with src := noSource }) (fun t => t.dir = .closed ∧ t.resp = [0x1000]) := by decide
theorem test_openw_keeps_sink_B6 :
    nextSat (exec .openw ((given []).withSnkData [0x11])) (fun t => t.dir = .write ∧ t.snk.data = [0x11]) := by decide
theorem test_openw_twice_B18 : nextSat (exec .openw (writing101 (given []))) (fun t => t.resp = [0x7000] ∧ t.buf = 0xA0) := by decide
theorem test_rdbit_pulls_B7 :
    nextSat (exec .rdbit (reading (given [0xA0]))) (fun t => t.resp = [0x0001] ∧ t.cnt.val = 7 ∧ t.spos = 1) := by decide
theorem test_rdbit_error_B12 :
    nextSat (exec .rdbit (failingAt 1 ((reading (given [0x12, 0x34])).withSpos 1))) (fun t => t.resp = [0x1000] ∧ t.spos = 1) := by decide
theorem test_rdbyte_straddles_B8 :
    nextSat (exec .rdbyte (((given [0xA0, 0x61]).withChan .read 0xA0 5).withSpos 1))
      (fun t => t.resp = [0x0003] ∧ t.buf = 0x61 ∧ t.cnt.val = 5 ∧ t.spos = 2) := by decide
theorem test_rdbyte_consumes_B10 :
    nextSat (exec .rdbyte (((given [0xA0]).withChan .read 0xA0 7).withSpos 1)) (fun t => t.resp = [0x3000] ∧ t.cnt.val = 0) := by decide
theorem test_wrbit_left_aligned_P1 :
    nextSat (exec (.wrbit true) ((given []).withChan .write 0x80 2)) (fun t => t.buf = 0xA0 ∧ t.cnt.val = 3) := by decide
theorem test_wrbit_lost_byte_B13 :
    nextSat (exec (.wrbit true) (capped 0 ((given []).withChan .write 0xFE 7)))
      (fun t => t.resp = [0x1000] ∧ t.buf = 0 ∧ t.cnt.val = 0 ∧ t.dir = .write ∧ t.snk.data = []) := by decide
theorem test_wrbyte_straddles_B4 :
    nextSat (exec (.wrbyte 0x61) (writing101 (given []))) (fun t => t.snk.data = [0xAC] ∧ t.buf = 0x20 ∧ t.cnt.val = 3) := by decide
theorem test_wrbyte_fails_inside_B15 :
    nextSat (exec (.wrbyte 0x61) (capped 0 (writing101 (given [])))) (fun t => t.resp = [0x1000] ∧ t.buf = 0 ∧ t.cnt.val = 0) := by decide
theorem test_close_pads_B4 :
    nextSat (exec .close ((given []).withChan .write 0x20 3)) (fun t => t.snk.data = [0x20] ∧ t.dir = .closed) := by decide
theorem test_close_fails_closed_B14 :
    nextSat (exec .close (capped 0 ((given []).withChan .write 0x80 1))) (fun t => t.resp = [0x1000] ∧ t.dir = .closed) := by decide

/-! ## Tables (95_test_vectors.md 2.1, 2.3 to 2.6) -/

theorem test_freq_counts_F1 :
    nextSat (exec .freq (given aaab)) (fun t => t.ft[0x61] = some 3 ∧ t.ft[0x62] = some 1 ∧ t.ft[0] = some 0 ∧ t.spos = 4 ∧ t.ftV) := by decide
theorem test_freq_error_F4 :
    nextSat (exec .freq (failingAt 3 (given aaab))) (fun t => t.resp = [0x1000] ∧ t.spos = 3 ∧ t.faults = 0x02 ∧ ¬ t.ftV) := by decide
theorem test_build_V1 :
    nextSat (exec .build (withFtV1 (given [])))
      (fun t => t.node[2] = some (leafNode TERM 0) ∧ t.node[3] = some (innerNode (some 2) (some 1) 1) ∧
        t.node[4] = some (innerNode (some 3) (some 0) 4) ∧ t.root = some 4 ∧ t.ncnt.val = 5) := by decide
theorem test_build_empty_T2 :
    nextSat (exec .build { (given []).withFt (Vector.replicate 256 (some 0)) with ftV := true })
      (fun t => t.node[0] = some (leafNode 0 0) ∧ t.node[2] = some (innerNode (some 0) (some 1) 0) ∧ t.root = some 2) := by decide
theorem test_codes_V1 :
    nextSat (exec .codes (withTreeV1 (given [])))
      (fun t => t.ct[0x61] = some ⟨true, [true]⟩ ∧ t.ct[0x62] = some ⟨true, [false, true]⟩ ∧
        t.ct[256] = some ⟨true, [false, false]⟩ ∧ t.ct[0] = some ⟨false, []⟩) := by decide
theorem test_sertree_R169 :
    nextSat (exec .sertree (writing (withTreeV1 (given [])))) (fun t => t.snk.data = [0x39, 0x8A, 0x61] ∧ t.cnt.val = 0) := by decide
theorem test_sertree_capped_2_6 :
    nextSat (exec .sertree (capped 1 (writing (withTreeV1 (given []))))) (fun t => t.resp = [0x1000] ∧ t.snk.data = [0x39] ∧ t.cnt.val = 0) := by decide
theorem test_destree_H1 :
    nextSat (exec .destree (reading (given aaabOut)))
      (fun t => t.node[0] = some (innerNode (some 1) (some 4) 0) ∧ t.node[1] = some (innerNode (some 2) (some 3) 0) ∧
        t.node[4] = some (leafNode 0x61 0) ∧ t.root = some 0 ∧ t.ncnt.val = 5 ∧ t.spos = 3 ∧ t.cnt.val = 0) := by decide
theorem test_destree_repeated_H8 :
    nextSat (exec .destree (reading (given [0x4C, 0x33, 0x08]))) (fun t => t.resp = [0x4000] ∧ t.ncnt.val = 2 ∧ t.cnt.val = 3) := by decide

/-! ## Encoder and Decoder (95_test_vectors.md 2.7, 2.8) -/

theorem test_putsym_S1 : nextSat (exec (.putsym 0x62) (writing (withCtV1 (given [])))) (fun t => t.buf = 0x40 ∧ t.cnt.val = 2) := by decide
theorem test_putsym_no_code_S2 : nextSat (exec (.putsym 0x63) (writing (withCtV1 (given [])))) (fun t => t.resp = [0x7000] ∧ t.cnt.val = 0) := by decide
theorem test_putterm_S5 : nextSat (exec .putterm (writing (withCtV1 (given [])))) (fun t => t.buf = 0 ∧ t.cnt.val = 2) := by decide
theorem test_compress_V1 : nextSat (exec .compress (given aaab)) (fun t => t.snk.data = aaabOut ∧ t.dir = .closed ∧ ¬ t.treeV) := by decide
theorem test_compress_capped_P6 :
    nextSat (exec .compress (capped 1 (given aaab))) (fun t => t.resp = [0x1000] ∧ t.snk.data = [0x39] ∧ t.spos = 4) := by decide
theorem test_getsym_terminator_P3 :
    nextSat (exec .getsym (withTreeV1 (((given aaabOut).withChan .read 0xE8 3).withSpos 4))) (fun t => t.resp = [0x0100] ∧ t.cnt.val = 1) := by decide
theorem test_getsym_truncated_X15 :
    nextSat (exec .getsym (withTreeV1 ((reading (given [0x4C])).withSpos 1))) (fun t => t.resp = [0x5000]) := by decide
theorem test_decompress_padding_X2 :
    nextSat (exec .decompress (given [0x39, 0x8A, 0x61, 0xE9])) (fun t => t.snk.data = aaab ∧ t.spos = 4 ∧ t.resp = [0x0000]) := by decide
theorem test_decompress_cut_X9 :
    nextSat (exec .decompress (given [0x4C, 0x4E, 0x61, 0x7F])) (fun t => t.resp = [0x5000] ∧ t.snk.data = [0x62, 0x61, 0x61, 0x61]) := by decide

/-! ## Tokens, host and assembler (30_encoding.md R86, R93, R94; 95_test_vectors.md 2.9) -/

theorem test_int_257th_H10 :
    nextSat (exec .int { given [] with hdr := some { seen := [], nint := 256, stack := [] } }) (fun t => t.resp = [0x4000] ∧ t.hdr = none) := by decide
theorem test_int_allocates_H5 :
    nextSat (exec .int { given [] with hdr := some .start }) (fun t => t.ncnt.val = 1 ∧ t.hdr = some parseAtLeft) := by decide
theorem test_leafb_links_H1 :
    nextSat (exec (.leafb 0x62) (inHeader (given [])))
      (fun t => t.node[0] = some (innerNode (some 1) none 0) ∧ t.node[1] = some (leafNode 0x62 0)) := by decide
theorem test_leafb_alone_H12 :
    nextSat (exec (.leafb 0x61) { given [] with hdr := some .start }) (fun t => t.resp = [0x4000] ∧ ¬ t.treeV) := by decide
theorem test_leaft_alone_H3 :
    nextSat (exec .leaft { given [] with hdr := some .start }) (fun t => t.resp = [0x0000] ∧ t.root = some 0 ∧ t.treeV) := by decide
theorem test_leafb_right_child_closes_R171 :
    nextSat (exec (.leafb 0x61) (atRight (given [])))
      (fun t => t.node[0] = some (innerNode (some 1) (some 2) 0) ∧ t.root = some 0 ∧ t.treeV ∧ t.hdr = none ∧ t.resp = [0x0000]) := by decide
theorem test_illegal_word_P4 :
    nextSat (step (presented 0x0502 (writing101 (given [])))) (fun t => t.resp = [0x6000] ∧ t.faults = 0x40 ∧ t.buf = 0xA0) := by decide
theorem test_step_runs_table_word :
    nextSat (step (State.reset.withFetchWord 16 0x0700)) (fun t => t.resp = [0x0000] ∧ t.inbox = []) := by decide
theorem test_step_runs_table_token :
    decodeTableWord 8 3 = some .leaft ∧ nextSat (step (State.reset.withFetchWord 8 3)) (fun t => t.treeV ∧ t.ncnt.val = 1) := by decide
theorem test_assemble_R93 :
    assembleLine ['P', 'U', 'T', 'S', 'Y', 'M', ' ', '\'', 'a', '\'', ' ', ';', 'x'] = some (.one (.putsym 0x61)) ∧
    assembleLine ['W', 'R', 'B', 'Y', 'T', 'E', ' ', '0', 'x', '5', 'A'] = some (.one (.wrbyte 0x5A)) ∧
    assembleLine ['O', 'P', 'E', 'N', 'R', ' ', '1'] = none := by decide
theorem test_assemble_R94 :
    (assembleLine ['W', 'R', 'B', 'I', 'T', 'S', ' ', '1', '0']).map Line.commands = some [.wrbit true, .wrbit false] ∧
    (assembleLine ['R', 'D', 'B', 'I', 'T', 'S', ' ', '3']).map Line.commands = some [.rdbit, .rdbit, .rdbit] ∧
    (assembleLine ['P', 'U', 'T', 'S', 'T', 'R', ' ', '"', 'a', ';', '"']).map Line.commands = some [.putsym 0x61, .putsym 0x3B] := by decide

/-! ## Witnesses: the hypotheses of each statement met together, clause by clause, at boundary values -/

/-- The arena of V1. -/
def nodesV1 : Vector (Option Node) 513 := (withTreeV1 (given [])).node

theorem absTree_V1 : absTree maxFrames nodesV1 4 = some (treeV1, [4, 3, 2, 1, 0]) := by decide

theorem nodesV1_get :
    nodesV1[4] = some (innerNode (some 3) (some 0) 4) ∧ nodesV1[3] = some (innerNode (some 2) (some 1) 1) ∧
    nodesV1[2] = some (leafNode TERM 0) ∧ nodesV1[1] = some (leafNode 0x62 1) ∧ nodesV1[0] = some (leafNode 0x61 3) := by
  decide

theorem treeV1_wf : treeV1.Wf := by unfold Tree.Wf; decide

theorem tree_V1 (s : State) (hn : s.node = nodesV1) (hr : s.root = some 4) :
    s.tree? = some (treeV1, [4, 3, 2, 1, 0]) := by
  unfold State.tree?; rw [hn, hr]; exact absTree_V1

/-- V1 stands in the arena, with its weights. -/
theorem holdsTree_V1 (s : State) (hn : s.node = nodesV1) (hr : s.root = some 4) (hk : s.ncnt.val = 5)
    (hc : s.cfg.cw = 64) : HoldsTree s treeV1 := by
  refine ⟨[4, 3, 2, 1, 0], tree_V1 s hn hr, by decide, fun h => ?_, treeV1_wf, ?_⟩
  · rw [hk]
    obtain ⟨n, hlt⟩ := h
    simp only [List.mem_cons, List.not_mem_nil, or_false, Fin.ext_iff]
    show (n = 4 ∨ n = 3 ∨ n = 2 ∨ n = 1 ∨ n = 0) ↔ n < 5
    omega
  · unfold WeightsOk
    simp only [hn, hc]
    obtain ⟨n4, n3, n2, n1, n0⟩ := nodesV1_get
    intro h hh e he
    simp only [List.mem_cons, List.not_mem_nil, or_false] at hh
    obtain rfl | rfl | rfl | rfl | rfl := hh
    · cases he.symm.trans n4
      refine ⟨by decide, fun l r el er _ hl hr hel her => ?_⟩
      cases hl; cases hr; cases hel.symm.trans n3; cases her.symm.trans n0; rfl
    · cases he.symm.trans n3
      refine ⟨by decide, fun l r el er _ hl hr hel her => ?_⟩
      cases hl; cases hr; cases hel.symm.trans n2; cases her.symm.trans n1; rfl
    · cases he.symm.trans n2
      exact ⟨by decide, fun l r el er hl => absurd hl (by decide)⟩
    · cases he.symm.trans n1
      exact ⟨by decide, fun l r el er hl => absurd hl (by decide)⟩
    · cases he.symm.trans n0
      exact ⟨by decide, fun l r el er hl => absurd hl (by decide)⟩

/-- A state in which every table is valid, a word is presented, and every invariant holds. -/
def full : State := presented 0x1A00 (withCtV1 (withTreeV1 (withFtV1 (reading (given aaabOut)))))

theorem full_tree : full.tree? = some (treeV1, [4, 3, 2, 1, 0]) := tree_V1 full rfl rfl

theorem full_holdsTree : HoldsTree full treeV1 := holdsTree_V1 full rfl rfl rfl rfl

theorem full_ftOk : FtOk full := fun _ =>
  ⟨(List.replicate 97 0 ++ [3, 1]) ++ List.replicate 157 0, by decide, by decide⟩

theorem full_codes (x : Sym) : full.ct[x.val]'x.isLt = some (treeV1.entry x) := by revert x; decide

theorem witness_inv : Inv full := by
  refine ⟨⟨?_, ?_, ?_⟩, ⟨by decide, ?_⟩, ⟨by decide, by decide⟩, full_ftOk, fun _ => ⟨treeV1, full_holdsTree⟩, ?_, rfl⟩
  · intro h; exact absurd h (by decide)
  · intro h; exact absurd h (by decide)
  · intro _; decide
  · intro f h; cases h
  · refine fun _ => ⟨rfl, fun tree ⟨hs, ht, _⟩ x => ?_⟩
    obtain rfl : treeV1 = tree := by
      have := full_tree.symm.trans ht
      simpa using congrArg (Option.map Prod.fst) this
    exact full_codes x

/-- Where a fact about the next state is checked, there is a next state with it. -/
theorem next_of_sat {o : Host.Outcome State Fault Refusal} {p : State → Bool} (h : nextSat o p = true) :
    ∃ t, o = .next t ∧ p t = true := by
  cases o with
  | next t    => exact ⟨t, rfl, h⟩
  | fault e   => cases h
  | refused e => cases h

/-- No header is empty. -/
theorem header_ne_nil (tree : Tree) (l m : List Bool) : [] ≠ (tree.header ++ l) ++ m := by
  cases tree with
  | leaf x => unfold Tree.header Tree.tokens leafToken; split <;> simp [headerBits, Token.bits]
  | node a b => simp [Tree.header, Tree.tokens, headerBits, Token.bits]

theorem code_V1_ne_nil (x : Sym) (c : List Bool) (h : treeV1.code? x = some c) : ¬ c <+: [] := by
  intro hc
  obtain rfl : c = [] := by simpa using hc
  revert h x; decide

/-- A channel open for writing, `n` bits of 1 in its buffer. -/
def writing7 (s : State) : State := s.withChan .write 0xFE 7

/-- A source cut to one byte under a channel that has read two. -/
def pastEnd : State := (withTreeV1 (reading (given [0x39]))).withSpos 2

/-- Nothing bound. -/
def unbound (s : State) : State := { s with src := noSource, snk := noSink }

theorem witness_DecodeAndEncodeAgree : decode (.word 0x0501) = .ok (.wrbit true) ∧ decode (.bits [true, true]) = .ok .leaft :=
  ⟨rfl, rfl⟩
theorem witness_IllegalWords :
    (presented 0x0502 (given [])).hdr = none ∧ (presented 0x0502 (given [])).inbox = .command 0x0502 :: [] ∧
    ¬ LegalForm 0x0502 ∧ ¬ LegalForm 0x0800 ∧ LegalForm 0x0501 := by unfold LegalForm; decide
theorem witness_EveryCommandAnswers : Instr.isCommand .rdbit = true ∧
    ∃ t, exec .rdbit (reading (given [1])) = .next t ∧ decide (t.res.val = 0) = true := ⟨rfl, next_of_sat (by decide)⟩
theorem witness_StepRunsThePresentedCommand :
    (presented 0x0700 State.reset).hdr = none ∧ (presented 0x0700 State.reset).inbox = .command 0x0700 :: [] ∧
    decodeWord 0x0700 = .ok .close ∧ State.reset.hdr = none ∧ State.reset.inbox = [] := ⟨rfl, rfl, rfl, rfl, rfl⟩
theorem witness_StepRunsTheToken :
    (inHeader (reading (given [0x98, 0x80]))).hdr = some parseAtLeft ∧ (inHeader (reading (given [0x98, 0x80]))).dir = .read ∧
    (inHeader (reading (given [0x98, 0x80]))).readable = (Token.leafb 0x62).bits ++ [false, false, false, false, false, false] ∧
    (inHeader (reading (given [0x70]))).readable = Token.int.bits ++ [true, true, true, false, false, false, false] ∧
    (inHeader ((given []).withChan .read 0x03 2)).readable = Token.leaft.bits ++ [] := by decide
theorem witness_StepRunsTheToken_end :
    (∀ d ∈ [[], [0x98]], (inHeader (reading (given d))).dir = .read ∧
      (inHeader (reading (given d))).spos ≤ (inHeader (reading (given d))).src.data.length) ∧
    decodeToken (inHeader (reading (given []))).readable = .error .bitsEnd ∧
    decodeToken (inHeader (reading (given [0x98]))).readable = .error .bitsEnd ∧
    decodeToken (inHeader (failingAt 0 (reading (given [0x98])))).readable = .error .bitsEnd ∧
    readsIntoError (inHeader (failingAt 0 (reading (given [0x98])))) = true := ⟨by decide, rfl, rfl, rfl, by decide⟩
theorem witness_Reset : ({ given [] with inbox := [.reset] } : State).hdr = none ∧
    ({ given [] with inbox := [.reset] } : State).inbox = .reset :: [] := ⟨rfl, rfl⟩
theorem witness_HostMoves :
    (([1, 2, 3] : List Byte).length < 2 ^ 2 ∧ ∀ e, some 3 = some e → e ≤ ([1, 2, 3] : List Byte).length) ∧
    ¬ (([1, 2, 3, 4] : List Byte).length < 2 ^ 2 ∧ ∀ e, none = some e → e ≤ ([1, 2, 3, 4] : List Byte).length) ∧
    ¬ (([1, 2, 3] : List Byte).length < 2 ^ 2 ∧ ∀ e, some 4 = some e → e ≤ ([1, 2, 3] : List Byte).length) ∧
    ({ State.reset with cfg := ⟨2⟩, inbox := [.bindSource ⟨true, [1, 2, 3], some 3⟩] } : State).hdr = none ∧
    ({ State.reset with inbox := [.bindSink noSink] } : State).hdr = none :=
  ⟨⟨by decide, fun e h => by cases h; decide⟩, fun h => absurd h.1 (by decide), fun h => absurd (h.2 4 rfl) (by decide), rfl, rfl⟩
theorem witness_StatusRecords :
    (∃ t, exec .rdbit (reading (given [0x80])) = .next t ∧ decide (t.status = .ok) = true) ∧
    ∃ t, exec .rdbit (given []) = .next t ∧ decide (t.status = .failed .invalidDirection) = true :=
  ⟨next_of_sat (by decide), next_of_sat (by decide)⟩
theorem witness_Direction :
    dirFailure .rdbit .closed = some .invalidDirection ∧ dirFailure .freq .read = some .notReady ∧
    dirFailure .freq .write = none ∧ (given []).dir = .closed ∧ ChannelOk (given []) ∧
    ∃ t, exec .freq (writing (given [1])) = .next t ∧ decide (t.status = .ok) = true :=
  ⟨rfl, rfl, rfl, rfl, by unfold ChannelOk; decide, next_of_sat (by decide)⟩
theorem witness_CommandsFail :
    ∃ t, exec .getsym (withTreeV1 (reading (given []))) = .next t ∧ decide (t.status = .failed .truncatedStream) = true :=
  next_of_sat (by decide)
theorem witness_NotReady_causes :
    (given []).ftV = false ∧ (given []).treeV = false ∧ ((writing (given [])).dir = .write ∧ (writing (given [])).treeV = false) ∧
    ((reading (given [])).dir = .read ∧ (reading (given [])).treeV = false) ∧ (writing (given [])).ctV = false ∧
    ((writing (withCtV1 (given []))).ctV = true ∧ (writing (withCtV1 (given []))).ct[(0x63 : Byte).toNat]? = some (some ⟨false, []⟩)) ∧
    (writing (given [])).dir ≠ .closed ∧ (reading (given [])).dir ≠ .closed := by decide
theorem witness_NotReady :
    ∃ t, exec (.putsym 0x63) (writing (withCtV1 (given []))) = .next t ∧ decide (t.status = .failed .notReady) = true :=
  next_of_sat (by decide)
theorem witness_InvalidDirection :
    ∃ t, exec .getsym (writing (given [])) = .next t ∧ decide (t.status = .failed .invalidDirection) = true :=
  next_of_sat (by decide)
theorem witness_Open :
    (reading (given [])).dir ≠ .closed ∧ (writing (given [])).dir ≠ .closed ∧
    ((unbound (given [])).dir = .closed ∧ (unbound (given [])).src.present = false ∧ (unbound (given [])).snk.present = false) ∧
    ((given []).dir = .closed ∧ (given []).src.present = true ∧ (given []).snk.present = true) := by decide
theorem witness_Read_fails :
    ((reading (given [])).dir = .read ∧ (reading (given [])).cnt.val = 0 ∧ pullFails (reading (given [])) = false ∧
      (reading (given [])).spos = (reading (given [])).src.data.length) ∧
    (pullFails (reading (unbound (given []))) = true ∧ pullFails (failingAt 0 (reading (given []))) = true) ∧
    (((given []).withChan .read 0 7).cnt.val = 7 ∧ pullFails ((given []).withChan .read 0 7) = false ∧
      pullFails (failingAt 0 ((given []).withChan .read 0 7)) = true) := by decide
theorem witness_Read_gives :
    ((reading (given [1])).cnt.val = 0 ∧ pullFails (reading (given [1])) = false ∧
      (reading (given [1])).spos < (reading (given [1])).src.data.length) ∧
    (0 < ((given []).withChan .read 0 1).cnt.val ∧ 0 < ((given []).withChan .read 0 7).cnt.val) ∧
    (((given [1]).withChan .read 0 7).cnt.val ≤ 7 ∧ pullFails ((given [1]).withChan .read 0 7) = false) := by decide
theorem witness_PastTheEnd :
    pastEnd.dir = .read ∧ pastEnd.src.data.length < pastEnd.spos ∧ pullFails pastEnd = false ∧ pastEnd.cnt.val = 0 ∧
    pastEnd.treeV = true ∧ pastEnd.tree? = some (treeV1, [4, 3, 2, 1, 0]) ∧ treeV1.leaves.Nodup ∧
    ∀ x c, treeV1.code? x = some c → ¬ c <+: pastEnd.readable :=
  ⟨rfl, by decide, by decide, rfl, rfl, tree_V1 _ rfl rfl, treeV1_wf.1, fun x c h => code_V1_ne_nil x c h⟩
theorem witness_Write :
    ((writing (given [])).cnt.val = 0 ∧ ((given []).withChan .write 0 6).cnt.val < 7) ∧
    ((writing7 (given [])).dir = .write ∧ (writing7 (given [])).cnt.val = 7 ∧ pushFails (writing7 (given [])) = false ∧
      pushFails (capped 0 (writing7 (given []))) = true ∧ pushFails (writing7 (unbound (given []))) = true) ∧
    (ChannelOk (writing (given [])) ∧ ChannelOk (writing7 (given [])) ∧ ChannelOk (capped 0 (writing7 (given [])))) ∧
    (pushFails (capped 1 (writing (given []))) = false ∧ pushFails (capped 0 (writing (given []))) = true) := by
  unfold ChannelOk; decide
theorem witness_Close :
    ((writing7 (given [])).dir = .write ∧ 0 < (writing7 (given [])).cnt.val ∧ 0 < ((given []).withChan .write 0x80 1).cnt.val) ∧
    (pushFails (writing7 (given [])) = false ∧ pushFails (capped 0 (writing7 (given []))) = true) ∧
    ((reading (given [])).dir ≠ .write ∧ (writing (given [])).cnt.val = 0) := by decide
theorem witness_BitsWritten :
    (given []).dir = .closed ∧ (given []).snk = { present := true, data := [], cap := none } ∧
    (given [0xA0]).dir = .closed ∧ (given [0xA0]).src = { present := true, data := [0xA0], errAt := none } := by decide
theorem witness_Freq :
    (reading (given [])).dir = .read ∧ ((unbound (given [])).dir ≠ .read ∧ (unbound (given [])).src.present = false) ∧
    ((failingAt 4 (given aaab)).src.errAt = some 4 ∧ 4 ≤ (failingAt 4 (given aaab)).src.data.length ∧
      (failingAt 0 (given aaab)).src.errAt = some 0 ∧ (failingAt 0 (given aaab)).src.present = true) ∧
    ((given aaab).dir ≠ .read ∧ (writing (given aaab)).dir ≠ .read ∧ (given aaab).src.present = true) ∧
    ∀ e, (given aaab).src.errAt = some e → (given aaab).src.data.length < e :=
  ⟨rfl, by decide, by decide, by decide, fun e h => by cases h⟩
theorem witness_FreqIsOrderIndependent :
    (∃ t, exec .freq (given [1, 2]) = .next t ∧ decide (t.status = .ok) = true) ∧
    (∃ t, exec .freq (given [2, 1]) = .next t ∧ decide (t.status = .ok) = true) ∧
    (given [1, 2]).src.data.Perm (given [2, 1]).src.data :=
  ⟨next_of_sat (by decide), next_of_sat (by decide), List.Perm.swap _ _ _⟩
theorem witness_PopMin : popMin [⟨0, 1⟩, ⟨1, 1⟩, ⟨2, 0⟩] = some (⟨2, 0⟩, [⟨0, 1⟩, ⟨1, 1⟩]) ∧ popMin [] = none := by decide
theorem witness_Build : full.ftV = true ∧ FtOk full ∧ full.ft[0x61]? = some (some 3) ∧
    ∃ t, exec .build full = .next t ∧ decide (t.status = .ok) = true :=
  ⟨rfl, full_ftOk, by decide, next_of_sat (by decide)⟩
theorem witness_BuildOfTheEmptyInput :
    ({ (given []).withFt (Vector.replicate 256 (some 0)) with ftV := true } : State).ftV = true ∧
    ({ (given []).withFt (Vector.replicate 256 (some 0)) with ftV := true } : State).ft = Vector.replicate 256 (some 0) := ⟨rfl, rfl⟩
theorem witness_BuildOfOneByteValue :
    ∀ b : Byte, (writeFt 0x41 1 ((given []).withFt (Vector.replicate 256 (some 0)))).ft[b.toNat]?
      = some (some (if b = 0x41 then 1 else 0)) := by decide
theorem witness_Codes :
    (given []).treeV = false ∧ full.treeV = true ∧ full.tree? = some (treeV1, [4, 3, 2, 1, 0]) ∧ treeV1.leaves.Nodup ∧
    ∃ t, exec .codes full = .next t ∧
      (decide (t.ct[0x61]? = some (some ⟨true, [true]⟩)) && decide (t.ct[0x62]? = some (some ⟨true, [false, true]⟩))) = true :=
  ⟨rfl, rfl, full_tree, treeV1_wf.1, next_of_sat (by decide)⟩
theorem witness_TreeAndHeaderSizes : treeV1.Wf ∧ (Tree.leaf TERM).Wf ∧ 2 ≤ treeV1.leaves.length ∧ (Tree.leaf TERM).leaves.length = 1 := by
  unfold Tree.Wf; decide
theorem witness_Sertree :
    (given []).dir ≠ .write ∧ ((writing (given [])).dir = .write ∧ (writing (given [])).treeV = false) ∧
    ((writing (withTreeV1 (given []))).treeV = true ∧ (writing (withTreeV1 (given []))).cnt.val ≤ 7 ∧
      (writing (withTreeV1 (given []))).tree? = some (treeV1, [4, 3, 2, 1, 0])) ∧
    (hasRoom 3 (writing (withTreeV1 (given []))) = true ∧ hasRoom 3 (capped 3 (writing (withTreeV1 (given [])))) = true ∧
      hasRoom 3 (capped 2 (writing (withTreeV1 (given [])))) = false) ∧
    (0 + treeV1.header.length) / 8 = 3 ∧ (7 + treeV1.header.length) / 8 = 3 :=
  ⟨by decide, by decide, ⟨rfl, by decide, tree_V1 _ rfl rfl⟩, by decide, by decide, by decide⟩
theorem witness_DestreeReads :
    (reading (given aaabOut)).dir = .read ∧ treeV1.Wf ∧
    (reading (given aaabOut)).readable = treeV1.header ++ [true, true, true, false, true, false, false, false] ∧
    (Tree.leaf TERM).Wf ∧ ((given []).withChan .read 0x03 2).readable = (Tree.leaf TERM).header ++ [] :=
  ⟨rfl, treeV1_wf, by decide, by unfold Tree.Wf; decide, by decide⟩
theorem witness_DestreeRejects :
    (given []).dir ≠ .read ∧
    ((reading (given [])).dir = .read ∧ (reading (given [])).spos ≤ (reading (given [])).src.data.length ∧
      (∀ (tree : Tree) (l : List Bool), tree.Wf → (reading (given [])).readable ≠ tree.header ++ l) ∧
      treeV1.header = (reading (given [])).readable ++ treeV1.header) ∧
    ((∀ (tree : Tree) (l : List Bool), tree.Wf → (failingAt 0 (reading (given [0x39]))).readable ≠ tree.header ++ l) ∧
      readsIntoError (failingAt 0 (reading (given [0x39]))) = true) :=
  ⟨by decide, ⟨rfl, by decide, fun tree l _ h => header_ne_nil tree l [] (by rw [List.append_nil]; exact h), rfl⟩,
    fun tree l _ h => header_ne_nil tree l [] (by rw [List.append_nil]; exact h), by decide⟩
theorem witness_TreeSurvives :
    (withTreeV1 (given [])).treeV = true ∧ HoldsTree (withTreeV1 (given [])) treeV1 ∧ (withTreeV1 (given [])).dir = .closed ∧
    (withTreeV1 (given [])).snk = { present := true, data := [], cap := none } ∧ (given [0x39, 0x8A, 0x61]).dir = .closed ∧
    (given [0x39, 0x8A, 0x61]).src = { present := true, data := [0x39, 0x8A, 0x61], errAt := none } :=
  ⟨rfl, holdsTree_V1 _ rfl rfl rfl rfl, rfl, rfl, rfl, rfl⟩
theorem witness_IntToken :
    ({ given [] with hdr := some { seen := [], nint := 256, stack := [] } } : State).hdr = some { seen := [], nint := 256, stack := [] } ∧
    ({ given [] with hdr := some .start } : State).ncnt.val = (0 : NodeIx).val ∧ HeaderParse.start.nint.val < 256 ∧
    (255 : Fin 257).val < 256 ∧ ({ given [] with ncnt := 512 } : State).ncnt.val = (512 : NodeIx).val := by decide
theorem witness_LeafTokens :
    (inHeader (given [])).hdr = some parseAtLeft ∧ byteSym 0x62 ∉ parseAtLeft.seen ∧ byteSym 0x62 ∈ [byteSym 0x62] ∧
    (inHeader (given [])).ncnt.val = (1 : NodeIx).val ∧ parseAtLeft.stack = ([] : List NodeIx).map .right ++ .left 0 :: [] ∧
    (0 : NodeIx).val < (1 : NodeIx).val ∧
    (linkRights 1 [] ((inHeader (given [])).node.set 1 (some (leafNode (byteSym 0x62) 0))))[0]? = some (some (innerNode none none 0)) ∧
    HeaderParse.start.stack = ([] : List NodeIx).map .right ∧ (given []).ncnt.val = (0 : NodeIx).val ∧
    (inHeader (given [])).ncnt.val < 513 := by decide
theorem witness_LeafTokens_right :
    (atRight (given [])).hdr = some { seen := [TERM], nint := 1, stack := [0].map .right } ∧ byteSym 0x61 ∉ [TERM] ∧
    (atRight (given [])).ncnt.val = (2 : NodeIx).val ∧
    (∀ g ∈ ([0] : List NodeIx), g.val < (2 : NodeIx).val) ∧ (atRight (given [])).node[0]? = some (some (innerNode (some 1) none 0)) := by
  decide
theorem witness_LeafTokens_open :
    ∀ f ∈ parseAtLeft.stack, ∀ h, (f = .left h ∨ f = .right h) →
      h.val < (inHeader (given [])).ncnt.val ∧ ∃ e, (inHeader (given [])).node[h.val]? = some (some e) := by
  intro f hf h hh
  obtain rfl : f = .left 0 := by simpa [parseAtLeft] using hf
  obtain hh | hh := hh
  · obtain rfl : (0 : NodeIx) = h := by injection hh
    exact ⟨by decide, innerNode none none 0, by decide⟩
  · cases hh
theorem witness_TokensOutside : Instr.isCommand .int = false ∧ Instr.isCommand (.leafb 0) = false ∧ Instr.isCommand .leaft = false ∧
    State.reset.hdr = none := by decide
theorem witness_DestreeIsItsTokens :
    (reading (given aaabOut)).hdr = none ∧ (reading (given aaabOut)).dir = .read ∧
    ∃ t, exec .destree (reading (given aaabOut)) = .next t ∧ decide (t.status = .ok) = true :=
  ⟨rfl, rfl, next_of_sat (by decide)⟩
theorem witness_Putsym :
    (given []).dir ≠ .write ∧ ((writing (given [])).dir = .write ∧ (writing (given [])).ctV = false) ∧
    ((writing (withCtV1 (given []))).ctV = true ∧ (writing (withCtV1 (given []))).ct[(0x63 : Byte).toNat]? = some (some ⟨false, []⟩)) ∧
    ((writing7 (withCtV1 (given []))).dir = .write ∧ (writing7 (withCtV1 (given []))).cnt.val ≤ 7 ∧
      (writing7 (withCtV1 (given []))).ct[(0x61 : Byte).toNat]? = some (some ⟨true, [true]⟩) ∧
      (writing7 (withCtV1 (given []))).ct[256]? = some (some ⟨true, [false, false]⟩)) ∧
    (hasRoom 1 (writing7 (withCtV1 (given []))) = true ∧ hasRoom 1 (capped 0 (writing7 (withCtV1 (given [])))) = false ∧
      hasRoom 0 (capped 0 (writing (withCtV1 (given [])))) = true) := by decide
theorem witness_Macros :
    (reading (given [])).dir ≠ .closed ∧ (writing (given [])).dir ≠ .closed ∧
    ((unbound (given [])).dir = .closed ∧ (unbound (given [])).src.present = false ∧ (unbound (given [])).snk.present = false) ∧
    ((failingAt 4 (given aaab)).dir = .closed ∧ (failingAt 4 (given aaab)).src.present = true ∧
      (failingAt 4 (given aaab)).snk.present = true ∧ (failingAt 4 (given aaab)).src.errAt = some 4 ∧
      4 ≤ (failingAt 4 (given aaab)).src.data.length) := by decide
theorem witness_MacrosRelease :
    (given aaabOut).dir = .closed ∧ (given aaabOut).src.present = true ∧ (given aaabOut).snk.present = true ∧
    (∃ t, exec .compress (capped 1 (given aaab)) = .next t ∧ decide (t.status = .failed .ioError) = true) ∧
    ∃ t, exec .decompress (given aaabOut) = .next t ∧ decide (t.status = .ok) = true :=
  ⟨rfl, rfl, rfl, next_of_sat (by decide), next_of_sat (by decide)⟩
theorem witness_Compress :
    (given aaab).dir = .closed ∧ (given aaab).src.present = true ∧ (given aaab).src.errAt = none ∧
    (∀ e, (given aaab).src.errAt = some e → (given aaab).src.data.length < e) ∧
    (given aaab).src.data.length < 2 ^ (given aaab).cfg.cw ∧ (given aaab).snk = { present := true, data := [], cap := none } ∧
    ((pack (treeV1.header ++ treeV1.payload aaab)).length = 4 ∧ hasRoom 4 (given aaab) = true ∧
      hasRoom 4 (capped 4 (given aaab)) = true ∧ hasRoom 4 (capped 3 (given aaab)) = false ∧
      hasRoom 4 (capped 0 (given aaab)) = false ∧ (capped 3 (given aaab)).snk.cap = some 3) ∧
    (∃ t, exec .compress (capped 4 (given aaab)) = .next t ∧ decide (t.status = .ok) = true) ∧
    (given aaabOut).src = { present := true, data := aaabOut, errAt := none } :=
  ⟨rfl, rfl, rfl, (fun e h => by cases h), by decide, rfl, by decide, next_of_sat (by decide), rfl⟩
theorem witness_Getsym :
    (given []).dir ≠ .read ∧ ((reading (given [])).dir = .read ∧ (reading (given [])).treeV = false) ∧
    (full.dir = .read ∧ full.treeV = true ∧ full.tree? = some (treeV1, [4, 3, 2, 1, 0]) ∧
      treeV1.code? TERM = some [false, false] ∧ (full.readable.take 2 = [false, false]) ∧
      full.readable = [false, false] ++ full.readable.drop 2) :=
  ⟨by decide, by decide, rfl, rfl, full_tree, by decide, by decide, by decide⟩
theorem witness_Getsym_end :
    ((withTreeV1 (reading (given []))).tree? = some (treeV1, [4, 3, 2, 1, 0]) ∧ treeV1.leaves.Nodup ∧
      (withTreeV1 (reading (given []))).spos ≤ (withTreeV1 (reading (given []))).src.data.length ∧
      ∀ x c, treeV1.code? x = some c → ¬ c <+: (withTreeV1 (reading (given []))).readable) ∧
    ((∀ x c, treeV1.code? x = some c → ¬ c <+: (failingAt 0 (withTreeV1 (reading (given [0x39])))).readable) ∧
      readsIntoError (failingAt 0 (withTreeV1 (reading (given [0x39])))) = true) :=
  ⟨⟨tree_V1 _ rfl rfl, treeV1_wf.1, by decide, fun x c h => code_V1_ne_nil x c h⟩, fun x c h => code_V1_ne_nil x c h, by decide⟩
theorem aaab_codes : ∀ b ∈ aaab, ∃ c, treeV1.code? (byteSym b) = some c := by
  intro b hb
  simp only [aaab, List.mem_cons, List.not_mem_nil, or_false] at hb
  obtain rfl | rfl | rfl | rfl := hb
  · exact ⟨[true], by decide⟩
  · exact ⟨[true], by decide⟩
  · exact ⟨[true], by decide⟩
  · exact ⟨[false, true], by decide⟩
theorem witness_DecompressStops :
    (given aaabOut).dir = .closed ∧ (given aaabOut).src.present = true ∧ (given aaabOut).snk.present = true ∧
    hasRoom aaab.length (given aaabOut) = true ∧ hasRoom aaab.length (capped 4 (given aaabOut)) = true ∧ treeV1.Wf ∧
    (∀ b ∈ aaab, ∃ c, treeV1.code? (byteSym b) = some c) ∧
    (given aaabOut).opened.readable = treeV1.header ++ treeV1.payload aaab ++ [false] ∧
    (failingAt 4 (given aaabOut)).opened.readable = treeV1.header ++ treeV1.payload aaab ++ [false] :=
  ⟨rfl, rfl, rfl, by decide, by decide, treeV1_wf, aaab_codes, by decide, by decide⟩
theorem witness_DecompressBad_header :
    (∀ (tree : Tree) (l : List Bool), tree.Wf → (given []).opened.readable ≠ tree.header ++ l) ∧
    (∀ (tree : Tree) (l : List Bool), tree.Wf → (failingAt 0 (given [0x39])).opened.readable ≠ tree.header ++ l) ∧
    readsIntoError (given []).opened = false ∧ readsIntoError (failingAt 0 (given [0x39])).opened = true ∧
    treeV1.header = (failingAt 0 (given [0x39])).opened.readable ++ treeV1.header :=
  ⟨fun tree l _ h => header_ne_nil tree l [] (by rw [List.append_nil]; exact h),
    fun tree l _ h => header_ne_nil tree l [] (by rw [List.append_nil]; exact h), by decide, by decide, by decide⟩
theorem witness_DecompressBad_payload :
    (given [0x39, 0x8A, 0x61, 0xFF]).opened.readable = treeV1.header ++ treeV1.codes (List.replicate 8 0x61) ++ [] ∧
    (∀ b ∈ List.replicate 8 (0x61 : Byte), ∃ c, treeV1.code? (byteSym b) = some c) ∧
    hasRoom 8 (given [0x39, 0x8A, 0x61, 0xFF]) = true ∧ (∀ x c, treeV1.code? x = some c → ¬ c <+: []) ∧
    (failingAt 3 (given aaabOut)).opened.readable = treeV1.header ++ treeV1.codes [] ++ [] ∧
    readsIntoError (failingAt 3 (given aaabOut)).opened = true ∧ hasRoom 0 (failingAt 3 (given aaabOut)) = true :=
  ⟨by decide, fun b hb => by rw [List.eq_of_mem_replicate hb]; exact ⟨[true], by decide⟩, by decide, code_V1_ne_nil, by decide,
    by decide, by decide⟩
theorem witness_DecompressBad_push :
    (capped 2 (given aaabOut)).opened.readable = treeV1.header ++ treeV1.codes aaab ++ [false, false, false] ∧
    (capped 2 (given aaabOut)).snk.cap = some 2 ∧ hasRoom aaab.length (capped 2 (given aaabOut)) = false ∧
    hasRoom aaab.length (capped 3 (given aaabOut)) = false ∧
    ∃ t, exec .decompress (capped 2 (given aaabOut)) = .next t ∧ decide (t.resp = [0x1000] ∧ t.snk.data = [0x61, 0x61]) = true :=
  ⟨by decide, rfl, by decide, by decide, next_of_sat (by decide)⟩
theorem witness_Instructions :
    (∃ t, exec .destree (reading (given aaabOut)) = .next t ∧ decide (t.treeV = true) = true) ∧
    (∃ t, exec (.leafb 0x62) (inHeader (given [])) = .next t ∧ decide (t.ncnt.val = 2) = true) ∧
    ∃ t, exec .sertree (writing (withTreeV1 (given []))) = .next t ∧ decide (t.snk.data.length = 3) = true :=
  ⟨next_of_sat (by decide), next_of_sat (by decide), next_of_sat (by decide)⟩
theorem witness_Steps : ChannelOk full ∧ Inv full ∧ ∃ t, step full = .next t ∧ decide (t.res = TERM) = true :=
  ⟨witness_inv.1, witness_inv, next_of_sat (by decide)⟩

end Sys2Proof.Tests
end

section
/-! PROOF. Byte streams read as bits (00_scope.md R12): where each bit of a stream stands. -/

namespace Sys2Proof.Machine

@[simp] theorem length_byteBits (v : Byte) : (byteBits v).length = 8 := rfl

/-- Within a byte the most significant bit comes first (R12, R57). -/
theorem getElem?_byteBits (v : Byte) {k : Nat} (hk : k < 8) : (byteBits v)[k]? = some (v.getLsbD (7 - k)) := by
  interval_cases k <;> rfl

@[simp] theorem streamBits_nil : streamBits [] = [] := rfl

@[simp] theorem streamBits_cons (v : Byte) (l : List Byte) : streamBits (v :: l) = byteBits v ++ streamBits l := rfl

@[simp] theorem streamBit?_nil (k : Nat) : streamBit? [] k = none := rfl

/-- The first eight bits of a stream are those of its first byte. -/
theorem streamBit?_cons_of_lt (v : Byte) (l : List Byte) {k : Nat} (hk : k < 8) :
    streamBit? (v :: l) k = some (v.getLsbD (7 - k)) := by
  simp [streamBit?, Nat.div_eq_of_lt hk, Nat.mod_eq_of_lt hk]

/-- From bit 8 on, a stream's bits are those of the stream without its first byte. -/
theorem streamBit?_cons_add_eight (v : Byte) (l : List Byte) (k : Nat) :
    streamBit? (v :: l) (k + 8) = streamBit? l k := by
  simp [streamBit?, Nat.add_div_right]

/-- The two readings of a byte sequence as a stream of bits agree at every position, the end included (R12). -/
theorem getElem?_streamBits (l : List Byte) (k : Nat) : (streamBits l)[k]? = streamBit? l k := by
  induction l generalizing k with
  | nil => simp
  | cons v l ih =>
    rw [streamBits_cons]
    rcases Nat.lt_or_ge k 8 with hk | hk
    · rw [List.getElem?_append_left (by simpa using hk), getElem?_byteBits v hk, streamBit?_cons_of_lt v l hk]
    · obtain ⟨j, rfl⟩ := Nat.exists_eq_add_of_le' hk
      rw [List.getElem?_append_right (by simp), length_byteBits, Nat.add_sub_cancel, ih,
        streamBit?_cons_add_eight]

/-- Settles O5, by induction on the bytes: a position below 8 falls in the first byte, any other in the rest. -/
theorem streamBitsAreMostSignificantFirst : Obligations.StreamBitsAreMostSignificantFirst := by
  unfold Obligations.StreamBitsAreMostSignificantFirst
  exact getElem?_streamBits

end Sys2Proof.Machine
end

section
/-! PROOF. What the body of a command leaves alone, command by command: `CW`, the registers a command's end writes, the
source, the host's side, and whether and how far the sink takes bytes (10_state.md R22, R28; 60_exceptions.md R222). -/

namespace Sys2Proof.Machine

/-- What no command's body writes is as it was: a body reaches the channel, `SPOS`, the flags, the tables and the sink's
bytes, and nothing else. -/
structure BodyFrame (s t : State) : Prop where
  cfg : t.cfg = s.cfg
  status : t.status = s.status
  faults : t.faults = s.faults
  res : t.res = s.res
  hdr : t.hdr = s.hdr
  src : t.src = s.src
  snkPresent : t.snk.present = s.snk.present
  snkCap : t.snk.cap = s.snk.cap
  inbox : t.inbox = s.inbox
  resp : t.resp = s.resp

section
variable {s t u : State}

theorem BodyFrame.refl (s : State) : BodyFrame s s := by constructor <;> rfl

theorem BodyFrame.trans (h : BodyFrame s t) (k : BodyFrame t u) : BodyFrame s u where
  cfg := k.cfg.trans h.cfg
  status := k.status.trans h.status
  faults := k.faults.trans h.faults
  res := k.res.trans h.res
  hdr := k.hdr.trans h.hdr
  src := k.src.trans h.src
  snkPresent := k.snkPresent.trans h.snkPresent
  snkCap := k.snkCap.trans h.snkCap
  inbox := k.inbox.trans h.inbox
  resp := k.resp.trans h.resp

theorem ReadFrame.body (h : ReadFrame s t) : BodyFrame s t := by
  unfold ReadFrame at h
  rw [h]
  constructor <;> rfl

theorem WriteFrame.body (h : WriteFrame s t) : BodyFrame s t := by
  unfold WriteFrame at h
  rw [h]
  constructor <;> rfl

theorem BodyFrame.withChan (h : BodyFrame s t) (d : Dir) (b : Byte) (c : Fin 9) : BodyFrame s (t.withChan d b c) :=
  h.trans (by constructor <;> rfl)

theorem BodyFrame.withSpos (h : BodyFrame s t) (n : Nat) : BodyFrame s (t.withSpos n) :=
  h.trans (by constructor <;> rfl)

theorem BodyFrame.withFlags (h : BodyFrame s t) (f g k : Bool) : BodyFrame s (t.withFlags f g k) :=
  h.trans (by constructor <;> rfl)

theorem BodyFrame.withTree (h : BodyFrame s t) (r : Handle) (n : Fin 514) : BodyFrame s (t.withTree r n) :=
  h.trans (by constructor <;> rfl)

theorem BodyFrame.withFt (h : BodyFrame s t) (f : Vector (Option Nat) 256) : BodyFrame s (t.withFt f) :=
  h.trans (by constructor <;> rfl)

theorem BodyFrame.withNode (h : BodyFrame s t) (f : Vector (Option Node) 513) : BodyFrame s (t.withNode f) :=
  h.trans (by constructor <;> rfl)

theorem BodyFrame.withCt (h : BodyFrame s t) (f : Vector (Option CodeEntry) 257) : BodyFrame s (t.withCt f) :=
  h.trans (by constructor <;> rfl)

end

/-- The frame of a sequence: that of its first part and, from wherever that part ends, that of the rest. -/
theorem Res.All.chain {α β : Type} {s : State} {r : Res α} {k : α → State → Res β} (h : r.All (BodyFrame s))
    (hk : ∀ a t, (k a t).All (BodyFrame t)) : (r.bind k).All (BodyFrame s) :=
  Res.All.bind h (fun _ ht => ht) fun a t _ ht => (hk a t).imp fun _ hu => ht.trans hu

/-- The frame of a body that runs from an updated state, when the update keeps the frame. -/
theorem BodyFrame.after {α : Type} {s t : State} {r : Res α} (h : BodyFrame s t) (hr : r.All (BodyFrame t)) :
    r.All (BodyFrame s) :=
  hr.imp fun _ hu => h.trans hu

/-! ## The shared operations -/

theorem srcPull_bodyFrame (s : State) : (srcPull s).All (BodyFrame s) := by
  rcases srcPull_cases s with ⟨h, -⟩ | ⟨h, -⟩ | ⟨b, h, -⟩ <;> rw [h]
  · exact BodyFrame.refl s
  · exact BodyFrame.refl s
  · exact (BodyFrame.refl s).withSpos _

theorem srcRewind_bodyFrame (s : State) : (srcRewind s).All (BodyFrame s) := by
  unfold srcRewind
  split
  · exact BodyFrame.refl s
  · exact (BodyFrame.refl s).withSpos 0

theorem snkPush_bodyFrame (b : Byte) (s : State) : (snkPush b s).All (BodyFrame s) :=
  (snkPush_frame b s).imp fun _ => WriteFrame.body

theorem readBit_bodyFrame (s : State) : (readBit s).All (BodyFrame s) := (readBit_frame s).imp fun _ => ReadFrame.body

theorem readByte_bodyFrame (s : State) : (readByte s).All (BodyFrame s) := (readByte_frame s).imp fun _ => ReadFrame.body

theorem writeBit_bodyFrame (b : Bool) (s : State) : (writeBit b s).All (BodyFrame s) :=
  (writeBit_frame b s).imp fun _ => WriteFrame.body

theorem writeBits_bodyFrame (l : List Bool) (s : State) : (writeBits l s).All (BodyFrame s) :=
  (writeBits_frame l s).imp fun _ => WriteFrame.body

theorem flush_bodyFrame (s : State) : (flush s).All (BodyFrame s) := (flush_frame s).imp fun _ => WriteFrame.body

theorem closeChan_bodyFrame (s : State) : BodyFrame s (closeChan s) := (BodyFrame.refl s).withChan _ _ _

theorem release_bodyFrame (s : State) : BodyFrame s (release s) := by
  have hf := flush_bodyFrame s
  unfold release
  split
  · split <;> rename_i heq <;> rw [heq] at hf
    · exact hf.trans (closeChan_bodyFrame _)
    · exact hf.trans (closeChan_bodyFrame _)
    · exact closeChan_bodyFrame s
  · exact closeChan_bodyFrame s

theorem readFt_bodyFrame (v : Byte) (s : State) : (readFt v s).All (BodyFrame s) := by
  unfold readFt
  split
  · trivial
  · exact BodyFrame.refl s

theorem readNode_bodyFrame (h : NodeIx) (s : State) : (readNode h s).All (BodyFrame s) := by
  unfold readNode
  split
  · trivial
  · exact BodyFrame.refl s

theorem readCt_bodyFrame (x : Sym) (s : State) : (readCt x s).All (BodyFrame s) := by
  unfold readCt
  split
  · trivial
  · exact BodyFrame.refl s

theorem follow_bodyFrame (h : Handle) (s : State) : (follow h s).All (BodyFrame s) := by
  cases h with
  | none => trivial
  | some h => exact BodyFrame.refl s

theorem alloc_bodyFrame (e : Node) (s : State) : (alloc e s).All (BodyFrame s) := by
  rcases alloc_cases e s with ⟨-, h⟩ | ⟨_, h⟩ <;> rw [h]
  · trivial
  · exact ((BodyFrame.refl s).withNode _).withTree _ _

/-! ## The BitChannel -/

theorem openrBody_bodyFrame (s : State) : (openrBody s).All (BodyFrame s) := by
  unfold openrBody
  split
  · exact BodyFrame.refl s
  · split
    · exact BodyFrame.refl s
    · exact .chain (srcRewind_bodyFrame s) fun _ t => (BodyFrame.refl t).withChan _ _ _

theorem openwBody_bodyFrame (s : State) : (openwBody s).All (BodyFrame s) := by
  unfold openwBody
  split
  · exact BodyFrame.refl s
  · split
    · exact BodyFrame.refl s
    · exact (BodyFrame.refl s).withChan _ _ _

theorem closeBody_bodyFrame (s : State) : (closeBody s).All (BodyFrame s) := by
  unfold closeBody
  split
  · exact (flush_bodyFrame s).finally fun t h => h.trans (closeChan_bodyFrame t)
  · exact closeChan_bodyFrame s

/-! ## The tables -/

theorem freqLoop_bodyFrame (n : Nat) (s : State) : (freqLoop n s).All (BodyFrame s) := by
  induction n generalizing s with
  | zero => trivial
  | succ n ih =>
    refine .chain (srcPull_bodyFrame s) fun r t => ?_
    cases r with
    | none => exact BodyFrame.refl t
    | some b => exact .chain (readFt_bodyFrame b t) fun c u => ((BodyFrame.refl u).withFt _).after (ih _)

theorem freqBody_bodyFrame (s : State) : (freqBody s).All (BodyFrame s) := by
  unfold freqBody
  split
  · exact BodyFrame.refl s
  · refine ((BodyFrame.refl s).withFlags _ _ _).after (.chain (srcRewind_bodyFrame _) fun _ t => ?_)
    exact ((BodyFrame.refl t).withFt _).after (.chain (freqLoop_bodyFrame _ _) fun _ u => (BodyFrame.refl u).withFlags _ _ _)

theorem allocLeaves_bodyFrame (l : List (Sym × Nat)) (q : List QEntry) (s : State) :
    (allocLeaves l q s).All (BodyFrame s) := by
  induction l generalizing q s with
  | nil => exact BodyFrame.refl s
  | cons p l ih => exact .chain (alloc_bodyFrame _ s) fun h t => ih _ t

theorem mergeLoop_bodyFrame (n : Nat) (q : List QEntry) (s : State) : (mergeLoop n q s).All (BodyFrame s) := by
  induction n generalizing q s with
  | zero => trivial
  | succ n ih =>
    unfold mergeLoop
    split
    · trivial
    · split
      · exact BodyFrame.refl s
      · exact .chain (alloc_bodyFrame _ s) fun h t => ih _ t

theorem buildBody_bodyFrame (s : State) : (buildBody s).All (BodyFrame s) := by
  unfold buildBody
  split
  · exact BodyFrame.refl s
  · split
    · trivial
    · refine (((BodyFrame.refl s).withFlags _ _ _).withTree _ _).after (.chain (allocLeaves_bodyFrame _ _ _) fun q t => ?_)
      exact .chain (mergeLoop_bodyFrame _ q t) fun r u => ((BodyFrame.refl u).withTree _ _).withFlags _ _ _

theorem codesWalk_bodyFrame (n : Nat) (h : NodeIx) (c : List Bool) (s : State) : (codesWalk n h c s).All (BodyFrame s) := by
  induction n generalizing h c s with
  | zero => trivial
  | succ n ih =>
    refine .chain (readNode_bodyFrame h s) fun e t => ?_
    split
    · exact (BodyFrame.refl t).withCt _
    · refine .chain (follow_bodyFrame e.left t) fun l t => .chain (ih l _ t) fun _ t => ?_
      exact .chain (follow_bodyFrame e.right t) fun r t => ih r _ t

theorem codesBody_bodyFrame (s : State) : (codesBody s).All (BodyFrame s) := by
  unfold codesBody
  split
  · exact BodyFrame.refl s
  · refine (((BodyFrame.refl s).withFlags _ _ _).withCt _).after (.chain (follow_bodyFrame _ _) fun r t => ?_)
    exact .chain (codesWalk_bodyFrame _ r [] t) fun _ u => (BodyFrame.refl u).withFlags _ _ _

/-! ## Headers -/

theorem sertreeBody_bodyFrame (s : State) : (sertreeBody s).All (BodyFrame s) := by
  unfold sertreeBody
  split
  · exact BodyFrame.refl s
  · split
    · exact BodyFrame.refl s
    · exact .chain (follow_bodyFrame s.root s) fun r t => (serWalk_frame maxFrames r t).imp fun _ => WriteFrame.body

theorem setLeft_bodyFrame (h l : NodeIx) (s : State) : (setLeft h l s).All (BodyFrame s) :=
  .chain (readNode_bodyFrame h s) fun _ t => (BodyFrame.refl t).withNode _

theorem setRight_bodyFrame (h r : NodeIx) (s : State) : (setRight h r s).All (BodyFrame s) :=
  .chain (readNode_bodyFrame h s) fun _ t => (BodyFrame.refl t).withNode _

theorem returnTree_bodyFrame (st : List Frame) (r : NodeIx) (s : State) : (returnTree st r s).All (BodyFrame s) := by
  induction st generalizing r s with
  | nil => exact BodyFrame.refl s
  | cons f st ih =>
    cases f with
    | left h => exact .chain (setLeft_bodyFrame h r s) fun _ t => BodyFrame.refl t
    | right h => exact .chain (setRight_bodyFrame h r s) fun _ t => ih h t

theorem parseInt_bodyFrame (p : HeaderParse) (s : State) : (parseInt p s).All (BodyFrame s) := by
  unfold parseInt
  split
  · exact .chain (alloc_bodyFrame _ s) fun _ t => BodyFrame.refl t
  · exact BodyFrame.refl s

theorem parseLeaf_bodyFrame (x : Sym) (p : HeaderParse) (s : State) : (parseLeaf x p s).All (BodyFrame s) := by
  unfold parseLeaf
  split
  · exact BodyFrame.refl s
  · exact .chain (alloc_bodyFrame _ s) fun n t => .chain (returnTree_bodyFrame p.stack n t) fun _ u => BodyFrame.refl u

theorem parseToken_bodyFrame (t : Token) (p : HeaderParse) (s : State) : (parseToken t p s).All (BodyFrame s) := by
  cases t with
  | int => exact parseInt_bodyFrame p s
  | leafb b => exact parseLeaf_bodyFrame _ p s
  | leaft => exact parseLeaf_bodyFrame _ p s

theorem parseLoop_bodyFrame (n : Nat) (p : HeaderParse) (s : State) : (parseLoop n p s).All (BodyFrame s) := by
  induction n generalizing p s with
  | zero => trivial
  | succ n ih =>
    refine .chain ((readToken_frame s).imp fun _ => ReadFrame.body) fun tok t => .chain (parseToken_bodyFrame tok p t) fun q u => ?_
    split
    · exact BodyFrame.refl u
    · exact ih q.1 u

theorem parseEnd_bodyFrame (p : HeaderParse) (r : NodeIx) (s : State) : (parseEnd p r s).All (BodyFrame s) := by
  unfold parseEnd
  split
  · exact ((BodyFrame.refl s).withTree _ _).withFlags _ _ _
  · exact BodyFrame.refl s

theorem clearTree_bodyFrame (s : State) : BodyFrame s (clearTree s) := ((BodyFrame.refl s).withFlags _ _ _).withTree _ _

theorem destreeBody_bodyFrame (s : State) : (destreeBody s).All (BodyFrame s) := by
  unfold destreeBody
  split
  · exact BodyFrame.refl s
  · exact (clearTree_bodyFrame s).after
      (.chain ((parseLoop_bodyFrame _ _ _).onEnd _) fun q t => parseEnd_bodyFrame q.1 q.2 t)

/-! ## The encoder and the decoder -/

theorem putCode_bodyFrame (x : Sym) (s : State) : (putCode x s).All (BodyFrame s) :=
  (putCode_frame x s).imp fun _ => WriteFrame.body

theorem putsymBody_bodyFrame (v : Byte) (s : State) : (putsymBody v s).All (BodyFrame s) := by
  unfold putsymBody
  split
  · exact BodyFrame.refl s
  · split
    · exact BodyFrame.refl s
    · refine .chain (readCt_bodyFrame _ s) fun e t => ?_
      split
      · exact putCode_bodyFrame _ t
      · exact BodyFrame.refl t

theorem puttermBody_bodyFrame (s : State) : (puttermBody s).All (BodyFrame s) := by
  unfold puttermBody
  split
  · exact BodyFrame.refl s
  · split
    · exact BodyFrame.refl s
    · exact putCode_bodyFrame TERM s

theorem encodeLoop_bodyFrame (n : Nat) (s : State) : (encodeLoop n s).All (BodyFrame s) := by
  induction n generalizing s with
  | zero => trivial
  | succ n ih =>
    refine .chain (srcPull_bodyFrame s) fun r t => ?_
    cases r with
    | none => exact BodyFrame.refl t
    | some b => exact .chain (putsymBody_bodyFrame b t) fun _ u => ih u

theorem compressSteps_bodyFrame (s : State) : (compressSteps s).All (BodyFrame s) :=
  .chain (freqBody_bodyFrame s) fun _ t => .chain (buildBody_bodyFrame t) fun _ t => .chain (codesBody_bodyFrame t) fun _ t =>
    .chain (openwBody_bodyFrame t) fun _ t => .chain (sertreeBody_bodyFrame t) fun _ t => .chain (srcRewind_bodyFrame t) fun _ t =>
    .chain (encodeLoop_bodyFrame _ t) fun _ t => .chain (puttermBody_bodyFrame t) fun _ t => closeBody_bodyFrame t

/-- What `COMPRESS` and `DECOMPRESS` test first changes nothing. -/
theorem macroReady_bodyFrame (s : State) : (macroReady s).All (BodyFrame s) := by
  unfold macroReady
  split
  · exact BodyFrame.refl s
  · split
    · exact BodyFrame.refl s
    · split <;> exact BodyFrame.refl s

theorem compressBody_bodyFrame (s : State) : (compressBody s).All (BodyFrame s) :=
  .chain (macroReady_bodyFrame s) fun _ t =>
    (compressSteps_bodyFrame t).finally fun u h => (h.trans (release_bodyFrame u)).withFlags _ _ _

theorem getsymBody_bodyFrame (s : State) : (getsymBody s).All (BodyFrame s) := by
  unfold getsymBody
  split
  · exact BodyFrame.refl s
  · split
    · exact BodyFrame.refl s
    · exact .chain (follow_bodyFrame s.root s) fun r t => (getWalk_frame maxFrames r t).imp fun _ => ReadFrame.body

theorem decodeLoop_bodyFrame (n : Nat) (s : State) : (decodeLoop n s).All (BodyFrame s) := by
  induction n generalizing s with
  | zero => trivial
  | succ n ih =>
    refine .chain (getsymBody_bodyFrame s) fun x t => ?_
    split
    · exact BodyFrame.refl t
    · exact .chain (snkPush_bodyFrame _ t) fun _ u => ih u

theorem decompressSteps_bodyFrame (s : State) : (decompressSteps s).All (BodyFrame s) :=
  .chain (openrBody_bodyFrame s) fun _ t => .chain (destreeBody_bodyFrame t) fun _ t =>
    .chain (decodeLoop_bodyFrame _ t) fun _ t => closeBody_bodyFrame t

theorem decompressBody_bodyFrame (s : State) : (decompressBody s).All (BodyFrame s) :=
  .chain (macroReady_bodyFrame s) fun _ t =>
    (decompressSteps_bodyFrame t).finally fun u h => (h.trans (closeChan_bodyFrame u)).withFlags _ _ _

/-! ## Every command -/

/-- A body that returns no result, as one that returns 0 (R28). -/
def Res.zero (r : Res Unit) : Res Sym := r.bind fun _ s => .ok ⟨0, by decide⟩ s

theorem Res.zero_eq_ok {r : Res Unit} {v : Sym} {t : State} : r.zero = .ok v t ↔ r = .ok () t ∧ v = ⟨0, by decide⟩ := by
  cases r <;> simp [Res.zero, and_comm, eq_comm]

theorem Res.All.zero_bodyFrame {s : State} {r : Res Unit} (h : r.All (BodyFrame s)) : r.zero.All (BodyFrame s) :=
  h.chain fun _ t => BodyFrame.refl t

/-- The body of a command: what it does before its end (R222). A header token is no command and has none here. -/
def commandBody? : Instr → Option (State → Res Sym)
  | .openr => some fun s => (openrBody s).zero
  | .openw => some fun s => (openwBody s).zero
  | .rdbit => some fun s => (readBit s).bind fun b s => .ok (bitSym b) s
  | .rdbyte => some fun s => (readByte s).bind fun v s => .ok (byteSym v) s
  | .wrbit b => some fun s => (writeBit b s).zero
  | .wrbyte v => some fun s => (writeByte v s).zero
  | .close => some fun s => (closeBody s).zero
  | .freq => some fun s => (freqBody s).zero
  | .build => some fun s => (buildBody s).zero
  | .codes => some fun s => (codesBody s).zero
  | .sertree => some fun s => (sertreeBody s).zero
  | .destree => some fun s => (destreeBody s).zero
  | .putsym v => some fun s => (putsymBody v s).zero
  | .putterm => some fun s => (puttermBody s).zero
  | .getsym => some getsymBody
  | .compress => some fun s => (compressBody s).zero
  | .decompress => some fun s => (decompressBody s).zero
  | .int | .leafb _ | .leaft => none

/-- A command is its body and one of the two ends of R222. -/
theorem exec_eq_finish {i : Instr} (hi : i.isCommand = true) :
    ∃ body, commandBody? i = some body ∧ ∀ s, exec i s = finish (body s) := by
  cases i with
  | int | leafb | leaft => cases hi
  | _ => exact ⟨_, rfl, fun _ => rfl⟩

/-- Every command's body keeps the frame. -/
theorem commandBody?_bodyFrame :
    ∀ {i : Instr} {body : State → Res Sym}, commandBody? i = some body → ∀ s, (body s).All (BodyFrame s)
  | .openr, _, rfl, s => (openrBody_bodyFrame s).zero_bodyFrame
  | .openw, _, rfl, s => (openwBody_bodyFrame s).zero_bodyFrame
  | .rdbit, _, rfl, s => (readBit_bodyFrame s).chain fun _ t => BodyFrame.refl t
  | .rdbyte, _, rfl, s => (readByte_bodyFrame s).chain fun _ t => BodyFrame.refl t
  | .wrbit b, _, rfl, s => (writeBit_bodyFrame b s).zero_bodyFrame
  | .wrbyte v, _, rfl, s => (writeBits_bodyFrame (byteBits v) s).zero_bodyFrame
  | .close, _, rfl, s => (closeBody_bodyFrame s).zero_bodyFrame
  | .freq, _, rfl, s => (freqBody_bodyFrame s).zero_bodyFrame
  | .build, _, rfl, s => (buildBody_bodyFrame s).zero_bodyFrame
  | .codes, _, rfl, s => (codesBody_bodyFrame s).zero_bodyFrame
  | .sertree, _, rfl, s => (sertreeBody_bodyFrame s).zero_bodyFrame
  | .destree, _, rfl, s => (destreeBody_bodyFrame s).zero_bodyFrame
  | .putsym v, _, rfl, s => (putsymBody_bodyFrame v s).zero_bodyFrame
  | .putterm, _, rfl, s => (puttermBody_bodyFrame s).zero_bodyFrame
  | .getsym, _, rfl, s => getsymBody_bodyFrame s
  | .compress, _, rfl, s => (compressBody_bodyFrame s).zero_bodyFrame
  | .decompress, _, rfl, s => (decompressBody_bodyFrame s).zero_bodyFrame

/-- Every command but the three that return a value returns 0 (R28). -/
theorem commandBody?_result_zero {i : Instr} {body : State → Res Sym} (hb : commandBody? i = some body)
    (hbit : i ≠ .rdbit) (hbyte : i ≠ .rdbyte) (hsym : i ≠ .getsym) {s t : State} {v : Sym} (h : body s = .ok v t) :
    v.val = 0 := by
  cases i with
  | rdbit => exact absurd rfl hbit
  | rdbyte => exact absurd rfl hbyte
  | getsym => exact absurd rfl hsym
  | int | leafb | leaft => cases hb
  | _ =>
    cases hb
    rw [(Res.zero_eq_ok.mp h).2]

/-- How a command ends: with the result its body returned, or with the failure it raised, from a state that differs from
the first one only as the frame allows. -/
theorem exec_eq_next {i : Instr} {s t : State} (hi : i.isCommand = true) (h : exec i s = .next t) :
    ∃ body, commandBody? i = some body ∧ ((∃ v u, body s = .ok v u ∧ BodyFrame s u ∧ t = endOk v u) ∨
      ∃ f u, body s = .raise f u ∧ BodyFrame s u ∧ t = endFail f u) := by
  obtain ⟨body, hb, hexec⟩ := exec_eq_finish hi
  have hframe := commandBody?_bodyFrame hb s
  rw [hexec, finish_eq_next] at h
  refine ⟨body, hb, h.imp ?_ ?_⟩
  · rintro ⟨v, u, hu, rfl⟩
    rw [hu] at hframe
    exact ⟨v, u, hu, hframe, rfl⟩
  · rintro ⟨f, u, hu, rfl⟩
    rw [hu] at hframe
    exact ⟨f, u, hu, hframe, rfl⟩

end Sys2Proof.Machine
end

section
/-! PROOF. What reading returns (10_state.md R26, R28; 40_bitchannel.md R111, R112): the bits that had not yet been
returned, in order. -/

namespace Sys2Proof.Machine

/-! ## The bits taken -/

/-- The last `k + 1` bits of a byte begin with its bit `k`. -/
theorem drop_byteBits (v : Byte) {k : Nat} (hk : k < 8) :
    (byteBits v).drop (8 - (k + 1)) = v.getLsbD k :: (byteBits v).drop (8 - k) := by
  interval_cases k <;> rfl

theorem takeBit_unread {s t : State} {b : Bool} (hc : 0 < s.cnt.val) (h : takeBit s = .ok b t) :
    s.unread = b :: t.unread := by
  obtain ⟨k, hk⟩ : ∃ k, s.cnt.val = k + 1 := Nat.exists_eq_succ_of_ne_zero (by omega)
  have hk8 : k < 8 := by have := s.cnt.isLt; omega
  cases h
  simp only [State.unread, State.withBuf_buf, State.withBuf_cnt, State.withBuf_src, State.withBuf_spos, hk,
    drop_byteBits s.buf hk8, Nat.add_sub_cancel, List.cons_append]

/-- `ReadBit()` returns the next unread bit, and the others stay unread (R111). -/
theorem readBit_unread {s t : State} {b : Bool} (h : readBit s = .ok b t) : s.unread = b :: t.unread := by
  rcases readBit_cases s with ⟨f, hr, -⟩ | ⟨-, hc, hr⟩ | ⟨-, hc, v, hv, hr⟩ <;> rw [hr] at h
  · cases h
  · exact takeBit_unread hc h
  · have hdrop : s.src.data.drop s.spos = v :: s.src.data.drop (s.spos + 1) := by
      rw [List.drop_eq_getElem?_toList_append, hv]
      rfl
    rw [← takeBit_unread (by simp) h]
    simp [State.unread, hc, hdrop]

/-- The bit `setBit` writes, as a power of two. -/
theorem setBit_eq (v : Byte) (n : Nat) (b : Bool) :
    setBit v n b = if b then v ||| BitVec.twoPow 8 n else v &&& ~~~BitVec.twoPow 8 n := rfl

theorem and_twoPow_eq_zero {v : Byte} {n : Nat} (h : v.getLsbD n = false) : v &&& BitVec.twoPow 8 n = 0#8 := by
  refine BitVec.eq_of_getLsbD_eq fun i hi => ?_
  rw [BitVec.getLsbD_and, BitVec.getLsbD_twoPow, BitVec.getLsbD_zero]
  by_cases hin : n = i
  · simp only [← hin, h, Bool.false_and]
  · simp [hin]

theorem and_not_twoPow_eq {v : Byte} {n : Nat} (h : v.getLsbD n = false) : v &&& ~~~BitVec.twoPow 8 n = v := by
  refine BitVec.eq_of_getLsbD_eq fun i hi => ?_
  rw [BitVec.getLsbD_and, BitVec.getLsbD_not, BitVec.getLsbD_twoPow]
  by_cases hin : n = i
  · simp only [← hin, h, Bool.false_and]
  · simp [hin, hi]

/-- Setting bit `n` of a byte whose lower bits are clear appends the bit to the ones above. -/
theorem setBit_toNat {v : Byte} {n k : Nat} (hn : n < 8) (hv : v.toNat = k * 2 ^ (n + 1)) (b : Bool) :
    (setBit v n b).toNat = (2 * k + b.toNat) * 2 ^ n := by
  have hclear : v.getLsbD n = false := by
    rw [← BitVec.testBit_toNat, hv, Nat.testBit_mul_two_pow]
    simp
  have hpow : 2 ^ n < 2 ^ 8 := Nat.pow_lt_pow_right (by omega) hn
  have hzero := and_twoPow_eq_zero hclear
  cases b with
  | false =>
    simp only [setBit_eq, Bool.false_eq_true, if_false, and_not_twoPow_eq hclear, hv, Bool.toNat_false]
    ring
  | true =>
    simp only [setBit_eq, if_true, ← BitVec.add_eq_or_of_and_eq_zero _ _ hzero,
      BitVec.toNat_add_of_and_eq_zero hzero, BitVec.toNat_twoPow, Nat.mod_eq_of_lt hpow, hv, Bool.toNat_true]
    ring

/-- The bits read into a byte from bit `n - 1` down follow the ones above them (R112). -/
theorem readBits_unread {n : Nat} {v w : Byte} {s t : State} {k : Nat} (hn : n ≤ 8) (hv : v.toNat = k * 2 ^ n)
    (h : readBits n v s = .ok w t) :
    ∃ l, l.length = n ∧ s.unread = l ++ t.unread ∧ w.toNat = l.foldl (fun m b => 2 * m + b.toNat) k := by
  induction n generalizing v s k with
  | zero =>
    cases h
    exact ⟨[], rfl, rfl, by simpa using hv⟩
  | succ n ih =>
    obtain ⟨b, u, hb, hr⟩ := Res.bind_eq_ok.mp h
    obtain ⟨l, hl, hu, hw⟩ := ih (by omega) (setBit_toNat (by omega) hv b) hr
    exact ⟨b :: l, by simp [hl], by simp [readBit_unread hb, hu], hw⟩

/-- `ReadByte()` returns the value of the next eight unread bits, and the others stay unread (R112). -/
theorem readByte_unread {s t : State} {w : Byte} (h : readByte s = .ok w t) :
    ∃ l, l.length = 8 ∧ s.unread = l ++ t.unread ∧ w.toNat = bitsVal l :=
  readBits_unread (k := 0) le_rfl (by simp) h

end Sys2Proof.Machine
end

section
/-! PROOF. Walks over a tree of the arena (10_state.md R32; 43_codetable.md R155; 46_decoder.md R200): a walk that reads
bits takes the code of the symbol it finds. -/

namespace Sys2Proof.Machine

/-! ## Codes and the arena -/

/-- The symbols with a code are those on the leaves. -/
theorem Tree.code?_eq_none_iff (tree : Tree) (x : Sym) : tree.code? x = none ↔ x ∉ tree.leaves := by
  induction tree with
  | leaf y => simp [Tree.code?, Tree.leaves]
  | node l r ihl ihr =>
    simp only [Tree.code?, Tree.leaves, List.mem_append, not_or, ← ihl, ← ihr]
    cases l.code? x <;> cases r.code? x <;> simp

theorem Tree.code?_left {l r : Tree} {x : Sym} {c : List Bool} (h : l.code? x = some c) :
    (Tree.node l r).code? x = some (false :: c) := by
  simp [Tree.code?, h]

theorem Tree.code?_right {l r : Tree} {x : Sym} {c : List Bool} (hl : x ∉ l.leaves) (h : r.code? x = some c) :
    (Tree.node l r).code? x = some (true :: c) := by
  simp [Tree.code?, (l.code?_eq_none_iff x).mpr hl, h]

/-- The ways a node of an arena holds a tree: a Leaf, or an Internal node with a tree below each child. -/
theorem absTree_cases {n : Nat} {a : Vector (Option Node) 513} {h : NodeIx} {tree : Tree} {hs : List NodeIx}
    (ht : absTree (n + 1) a h = some (tree, hs)) :
    ∃ e, a[h.val]'h.isLt = some e ∧
      ((e.leaf = true ∧ tree = .leaf e.sym ∧ hs = [h]) ∨
       (e.leaf = false ∧ ∃ l r tl hl tr hr, e.left = some l ∧ e.right = some r ∧ absTree n a l = some (tl, hl) ∧
          absTree n a r = some (tr, hr) ∧ tree = .node tl tr ∧ hs = h :: (hl ++ hr))) := by
  unfold absTree at ht
  cases he : a[h.val]'h.isLt with
  | none => simp [he] at ht
  | some e =>
    refine ⟨e, rfl, ?_⟩
    cases hleaf : e.leaf with
    | true => exact .inl (by simpa [he, hleaf, eq_comm] using ht)
    | false =>
      refine .inr ⟨rfl, ?_⟩
      cases hel : e.left with
      | none => simp [he, hleaf, hel] at ht
      | some l =>
        cases her : e.right with
        | none => simp [he, hleaf, hel, her] at ht
        | some r =>
          rcases hl : absTree n a l with _ | ⟨tl, nl⟩
          · simp [he, hleaf, hel, her, hl] at ht
          · rcases hr : absTree n a r with _ | ⟨tr, nr⟩
            · simp [he, hleaf, hel, her, hl, hr] at ht
            · obtain ⟨rfl, rfl⟩ : Tree.node tl tr = tree ∧ h :: (nl ++ nr) = hs := by
                simpa [he, hleaf, hel, her, hl, hr] using ht
              exact ⟨l, r, tl, nl, tr, nr, rfl, rfl, hl, hr, rfl, rfl⟩

theorem readNode_eq {h : NodeIx} {s : State} {e : Node} (he : s.node[h.val]'h.isLt = some e) :
    readNode h s = .ok e s := by
  simp [readNode, he]

theorem Res.onEnd_eq_ok {α : Type} {r : Res α} {f : Failure} {a : α} {t : State} :
    r.onEnd f = .ok a t ↔ r = .ok a t := by
  cases r <;> simp

theorem ReadFrame.node_eq {s t : State} (h : ReadFrame s t) : t.node = s.node := by
  unfold ReadFrame at h
  rw [h]

/-- Reading a bit leaves the arena as it was. -/
theorem readBit_node {s t : State} {b : Bool} (h : readBit s = .ok b t) : t.node = s.node := by
  have hf := readBit_frame s
  rw [h] at hf
  exact ReadFrame.node_eq hf

/-! ## The symbol found -/

/-- The walk from the root of a tree with distinct leaves takes the code of the symbol it returns (R200). -/
theorem getWalk_code {n : Nat} {h : NodeIx} {s t : State} {x : Sym} {tree : Tree} {hs : List NodeIx}
    (htree : absTree n s.node h = some (tree, hs)) (hnd : tree.leaves.Nodup) (hw : getWalk n h s = .ok x t) :
    ∃ c, tree.code? x = some c ∧ s.unread = c ++ t.unread := by
  induction n generalizing h s tree hs with
  | zero => cases hw
  | succ n ih =>
    obtain ⟨e, he, ⟨hleaf, rfl, -⟩ | ⟨hleaf, l, r, tl, hl, tr, hr, hel, her, htl, htr, rfl, -⟩⟩ := absTree_cases htree
    · simp only [getWalk, readNode_eq he, Res.bind_ok, hleaf, if_true] at hw
      cases hw
      exact ⟨[], by simp [Tree.code?], rfl⟩
    · simp only [getWalk, readNode_eq he, Res.bind_ok, hleaf, Bool.false_eq_true, if_false, Res.bind_eq_ok,
        Res.onEnd_eq_ok] at hw
      obtain ⟨b, u, hb, g, u', hg, hwalk⟩ := hw
      obtain ⟨hndl, hndr, hdisj⟩ := List.nodup_append.mp hnd
      rw [readBit_unread hb]
      rw [← readBit_node hb] at htl htr
      cases b with
      | false =>
        simp only [Bool.false_eq_true, if_false, hel, follow] at hg
        cases hg
        obtain ⟨c, hc, hu⟩ := ih htl hndl hwalk
        exact ⟨false :: c, Tree.code?_left hc, by simp [hu]⟩
      | true =>
        simp only [if_true, her, follow] at hg
        cases hg
        obtain ⟨c, hc, hu⟩ := ih htr hndr hwalk
        have hxr : x ∈ tr.leaves := by
          by_contra hx
          simp [(tr.code?_eq_none_iff x).mpr hx] at hc
        have hxl : x ∉ tl.leaves := fun hx => hdisj x hx x hxr rfl
        exact ⟨true :: c, Tree.code?_right hxl hc, by simp [hu]⟩

/-- `GETSYM` takes the code of the symbol it returns (R201). -/
theorem getsymBody_code {s t : State} {x : Sym} {tree : Tree} {hs : List NodeIx} (htree : s.tree? = some (tree, hs))
    (hnd : tree.leaves.Nodup) (h : getsymBody s = .ok x t) :
    ∃ c, tree.code? x = some c ∧ s.unread = c ++ t.unread := by
  unfold getsymBody at h
  split at h
  · cases h
  · split at h
    · cases h
    · cases hroot : s.root with
      | none => simp [State.tree?, hroot] at htree
      | some r =>
        simp only [State.tree?, hroot] at htree
        simp only [hroot, follow, Res.bind_ok] at h
        exact getWalk_code htree hnd h

end Sys2Proof.Machine
end

section
/-! PROOF. The registers that record how a command ended, and reset (10_state.md R28, R44; 60_exceptions.md R251). -/

namespace Sys2Proof.Machine

/-! ## The end of a command -/

theorem getLsbD_recordFault (faults : BitVec 8) (f : Failure) (k : Nat) :
    (recordFault faults f).getLsbD k = (faults.getLsbD k || decide (k = f.code.toNat)) := by
  have hcode : f.code.toNat < 8 := by cases f <;> decide
  rw [recordFault, ← BitVec.twoPow_eq, BitVec.getLsbD_or, BitVec.getLsbD_twoPow]
  simp [hcode, eq_comm]

/-- No failure has code 0 (R215). -/
theorem Failure.code_ne_zero (f : Failure) : f.code.toNat ≠ 0 := by cases f <;> decide

theorem recordFault_bit_zero (faults : BitVec 8) (f : Failure) :
    (recordFault faults f).getLsbD 0 = faults.getLsbD 0 := by
  rw [getLsbD_recordFault, decide_eq_false f.code_ne_zero.symm, Bool.or_false]

theorem bitSym_val (b : Bool) : (bitSym b).val = b.toNat := by cases b <;> rfl

/-- What `RDBIT` returns is the next unread bit (R28, R118). -/
theorem rdbit_result {s t : State} {v : Sym} (h : ((readBit s).bind fun b s => .ok (bitSym b) s) = Res.ok v t) :
    v.val ≤ 1 ∧ v.val = bitsVal (s.unread.take 1) := by
  obtain ⟨b, u, hb, hv⟩ := Res.bind_eq_ok.mp h
  cases hv
  rw [readBit_unread hb, bitSym_val]
  exact ⟨Bool.toNat_le b, by simp [bitsVal]⟩

/-- What `RDBYTE` returns is the value of the next eight unread bits (R28, R119). -/
theorem rdbyte_result {s t : State} {v : Sym} (h : ((readByte s).bind fun b s => .ok (byteSym b) s) = Res.ok v t) :
    v.val ≤ 255 ∧ v.val = bitsVal (s.unread.take 8) := by
  obtain ⟨b, u, hb, hv⟩ := Res.bind_eq_ok.mp h
  obtain ⟨l, hl, hu, hval⟩ := readByte_unread hb
  cases hv
  refine ⟨Nat.le_of_lt_succ b.isLt, ?_⟩
  rw [hu, List.take_left' hl, ← hval]
  rfl

/-- Settles O12: a command is its body and one of two ends, its body leaves `FAULTS` alone, and what it returns is read off
the unread bits. -/
theorem statusFaultsAndResultRecordTheEnd : Obligations.StatusFaultsAndResultRecordTheEnd := by
  unfold Obligations.StatusFaultsAndResultRecordTheEnd
  intro i s t hi h
  obtain ⟨body, hb, ⟨v, u, hbody, hframe, rfl⟩ | ⟨f, u, -, hframe, rfl⟩⟩ := exec_eq_next hi h
  · refine ⟨fun _ => hframe.faults, fun f hf => (by cases hf), congrArg (·.getLsbD 0) hframe.faults,
      fun h1 h2 h3 => commandBody?_result_zero hb h1 h2 h3 hbody, ?_, ?_, ?_⟩
    · rintro rfl
      cases hb
      exact (rdbit_result hbody).imp_right fun hv _ => hv
    · rintro rfl
      cases hb
      exact (rdbyte_result hbody).imp_right fun hv _ => hv
    · rintro tree hs rfl - htree hnd
      cases hb
      obtain ⟨c, hc, hu⟩ := getsymBody_code htree hnd hbody
      exact ⟨Nat.le_of_lt_succ v.isLt, c, hc, hu ▸ List.prefix_append c u.unread⟩
  · have hnotOk : (endFail f u).status ≠ .ok := Status.noConfusion
    refine ⟨fun hok => absurd hok hnotOk, ?_, ?_, fun _ _ _ => rfl, fun _ => ⟨Nat.zero_le _, fun hok => absurd hok hnotOk⟩,
      fun _ => ⟨Nat.zero_le _, fun hok => absurd hok hnotOk⟩, fun _ _ _ hok => absurd hok hnotOk⟩
    · intro g hg
      cases hg
      exact ⟨rfl, fun k => hframe.faults ▸ getLsbD_recordFault u.faults f k⟩
    · exact hframe.faults ▸ recordFault_bit_zero u.faults f

/-! ## Reset -/

/-- Outside a header a step is the host's next move (R43). -/
theorem step_eq_hostAct {s : State} {a : HostAct} {l : List HostAct} (hh : s.hdr = none) (hi : s.inbox = a :: l) :
    step s = hostAct a (s.withInbox l) := by
  simp [step, commandStep, hh, hi]

/-- Settles O10: the step is the host's reset, which keeps the streams and takes every register from `State.reset`. -/
theorem resetWritesEveryRegister : Obligations.ResetWritesEveryRegister := by
  unfold Obligations.ResetWritesEveryRegister
  intro s l hh hi
  refine ⟨applyReset (s.withInbox l), step_eq_hostAct hh hi, rfl, rfl, ?_⟩
  rintro u (rfl | rfl)
  · exact ⟨rfl, rfl, rfl, rfl, rfl, rfl, rfl, rfl, rfl, rfl, rfl, rfl, rfl⟩
  · exact ⟨rfl, rfl, rfl, rfl, rfl, rfl, rfl, rfl, rfl, rfl, rfl, rfl, rfl⟩

end Sys2Proof.Machine
end

section
/-! PROOF. Which command words are legal, and what becomes of the others (30_encoding.md R80 to R83). -/

namespace Sys2Proof

theorem opField_toNat (w : Word) : (opField w).toNat = w.toNat / 256 := by
  rw [opField, BitVec.extractLsb'_toNat, Nat.shiftRight_eq_div_pow]
  exact Nat.mod_eq_of_lt (Nat.div_lt_of_lt_mul w.isLt)

theorem argField_toNat (w : Word) : (argField w).toNat = w.toNat % 256 := BitVec.extractLsb'_toNat 0 8 w

/-- A tested operand is accepted exactly when the test holds. -/
theorem exists_ite_eq_ok_iff {p : Prop} [Decidable p] (i : Instr) (e : WordError) :
    (∃ j, (if p then .ok i else .error e) = Except.ok j) ↔ p := by
  split <;> simp [*]

/-- A command without an operand is accepted when its operand field is 0 (R82). -/
theorem noOperand_accepts_iff (arg : Byte) (i : Instr) : (∃ j, noOperand arg i = .ok j) ↔ arg.toNat = 0 :=
  (exists_ite_eq_ok_iff i _).trans BitVec.toNat_inj.symm

/-- `WRBIT` is accepted when its operand field is one bit (R82). -/
theorem bitOperand_accepts_iff (arg : Byte) : (∃ j, bitOperand arg = .ok j) ↔ arg.toNat ≤ 1 := by
  have hbits : arg.extractLsb' 1 7 = 0#7 ↔ arg.toNat ≤ 1 := by
    rw [← BitVec.toNat_inj, BitVec.extractLsb'_toNat, Nat.shiftRight_eq_div_pow, BitVec.toNat_ofNat]
    omega
  exact (exists_ite_eq_ok_iff _ _).trans hbits

/-- The decoder's opcode map and operand tests are those of R81 and R82: by the opcodes in the decoder's order, the fifth
`WRBIT`, the sixth `WRBYTE`, the thirteenth `PUTSYM`, and last the values that are not assigned. -/
theorem decodeWord_accepts_iff (w : Word) : (∃ i, decodeWord w = .ok i) ↔ Machine.LegalForm w := by
  unfold decodeWord Machine.LegalForm
  rw [opField_toNat, ← argField_toNat]
  generalize w.toNat / 256 = op
  dsimp only
  split
  case h_5 => simp [bitOperand_accepts_iff]
  case h_6 | h_13 => simp
  case h_18 => simp_all
  all_goals simp [noOperand_accepts_iff]

end Sys2Proof

namespace Sys2Proof.Machine

/-- The entry of a failure writes `STATUS`, `FAULTS` and `RES`, answers, and leaves the rest (R222). -/
theorem endFail_onlyFails (f : Failure) (s : State) : OnlyFails f s (endFail f s) :=
  ⟨⟨rfl, rfl, getLsbD_recordFault s.faults f, rfl⟩, ⟨rfl, rfl, rfl⟩, ⟨rfl, rfl, rfl⟩, ⟨rfl, ⟨rfl, rfl, rfl⟩, rfl⟩,
    ⟨rfl, rfl, rfl, rfl⟩, rfl, rfl⟩

/-- A word the decoder refuses ends with `IllegalCommand`, whatever the state (R83, R218). -/
theorem runCommand_of_not_legalForm {w : Word} (hw : ¬ LegalForm w) (s : State) :
    runCommand w s = .next (endFail .illegalCommand s) := by
  rw [← decodeWord_accepts_iff] at hw
  unfold runCommand
  cases hdec : decodeWord w with
  | ok i => exact absurd ⟨i, hdec⟩ hw
  | error e => rfl

/-- Settles O2: the decoder is compared with R81 and R82 opcode by opcode, and the step that meets a word it refuses is
the entry of `IllegalCommand`. -/
theorem illegalWordsRaiseIllegalCommand : Obligations.IllegalWordsRaiseIllegalCommand := by
  unfold Obligations.IllegalWordsRaiseIllegalCommand
  refine ⟨decodeWord_accepts_iff, ?_, by unfold LegalForm; decide, by unfold LegalForm; decide⟩
  intro s w l hh hi hw
  refine ⟨endFail .illegalCommand (s.withInbox l), ?_, endFail_onlyFails _ _⟩
  rw [step_eq_hostAct hh hi]
  exact runCommand_of_not_legalForm hw _

end Sys2Proof.Machine
end

section
/-! PROOF. The response word that ends a command (30_encoding.md R85). -/

namespace Sys2Proof.Machine

/-! ## The fields of a response word -/

theorem respWord_status (st : Status) (r : Sym) : (respWord st r).extractLsb' 12 4 = st.code := by
  rw [respWord, BitVec.extractLsb'_append_eq_of_le (by decide)]
  exact BitVec.extractLsb'_append_eq_left

theorem respWord_zeros (st : Status) (r : Sym) : (respWord st r).extractLsb' 9 3 = 0#3 := by
  rw [respWord, BitVec.extractLsb'_append_eq_of_le (by decide)]
  exact BitVec.extractLsb'_append_eq_right

/-- A result, 0 to 256, fits its nine bits. -/
theorem respWord_result (st : Status) (r : Sym) : ((respWord st r).extractLsb' 0 9).toNat = r.val := by
  have hr : r.val < 2 ^ 9 := r.isLt.trans (by decide)
  rw [respWord, BitVec.extractLsb'_append_eq_right, BitVec.toNat_ofNat, Nat.mod_eq_of_lt hr]

/-! ## The answer of a command -/

/-- A command's answer is made of the `STATUS` and `RES` it leaves: its body answers nothing, and each of its two ends
answers once (R85, R222). -/
theorem exec_resp {i : Instr} {s t : State} (hi : i.isCommand = true) (h : exec i s = .next t) :
    t.resp = s.resp ++ [respWord t.status t.res] := by
  obtain ⟨-, -, ⟨v, u, -, hframe, rfl⟩ | ⟨f, u, -, hframe, rfl⟩⟩ := exec_eq_next hi h
  · exact congrArg (· ++ [respWord .ok v]) hframe.resp
  · exact congrArg (· ++ [respWord (.failed f) ⟨0, by decide⟩]) hframe.resp

/-- Settles O7: a command's end answers once, with the fields of the response word read off one by one. -/
theorem everyCommandAnswersStatusAndResult : Obligations.EveryCommandAnswersStatusAndResult := by
  unfold Obligations.EveryCommandAnswersStatusAndResult
  exact ⟨fun _ _ _ => exec_resp, fun st r => ⟨respWord_status st r, respWord_zeros st r, respWord_result st r⟩,
    by decide, by decide, by decide, by decide⟩

end Sys2Proof.Machine
end

section
/-! PROOF. What a command's end says of the state its body left (10_state.md R28; 60_exceptions.md R222). -/

namespace Sys2Proof.Machine

/-- What holds of every state an operation can end in holds of the one it completes in. -/
theorem Res.All.of_eq_ok {α : Type} {P : State → Prop} {r : Res α} {a : α} {t : State} (h : r.All P)
    (hr : r = .ok a t) : P t := by
  rw [hr] at h
  exact h

/-- The same of the one it raises in. -/
theorem Res.All.of_eq_raise {α : Type} {P : State → Prop} {r : Res α} {f : Failure} {t : State} (h : r.All P)
    (hr : r = .raise f t) : P t := by
  rw [hr] at h
  exact h

section
variable {s t : State}

/-- Completing after a body that kept the frame. -/
theorem BodyFrame.endsOk (h : BodyFrame s t) (v : Sym) : EndsOk v s (endOk v t) :=
  ⟨rfl, rfl, h.faults, congrArg (· ++ [respWord .ok v]) h.resp⟩

/-- Failing after a body that kept the frame. -/
theorem BodyFrame.endsFailed (h : BodyFrame s t) (f : Failure) : EndsFailed f s (endFail f t) :=
  ⟨rfl, rfl, fun k => h.faults ▸ getLsbD_recordFault t.faults f k,
    congrArg (· ++ [respWord (.failed f) ⟨0, by decide⟩]) h.resp⟩

theorem ReadFrame.keeps (h : ReadFrame s t) : KeepsAllButReading s t := by
  unfold ReadFrame at h
  rw [h]
  exact ⟨rfl, ⟨rfl, rfl, rfl⟩, ⟨rfl, ⟨rfl, rfl, rfl⟩, rfl⟩, ⟨rfl, rfl, rfl, rfl⟩, rfl⟩

theorem WriteFrame.keeps (h : WriteFrame s t) : KeepsAllButWriting s t := by
  unfold WriteFrame at h
  rw [h]
  exact ⟨rfl, ⟨rfl, rfl, rfl⟩, ⟨rfl, ⟨rfl, rfl, rfl⟩, rfl⟩, ⟨rfl, rfl, rfl, rfl⟩, rfl, rfl, rfl⟩

end

theorem finishUnit_of_eq_ok {r : Res Unit} {t : State} (h : r = .ok () t) : finishUnit r = .next (endOk 0 t) := by
  rw [h]
  rfl

theorem finishUnit_of_eq_raise {r : Res Unit} {f : Failure} {t : State} (h : r = .raise f t) :
    finishUnit r = .next (endFail f t) := by
  rw [h]
  rfl

end Sys2Proof.Machine
end

section
/-! PROOF. When a pull or a push fails (20_memory.md R52, R54), and what opening and closing the channel come to
(40_bitchannel.md R115 to R117, R122). -/

namespace Sys2Proof.Machine

section
variable {s : State}

/-! ## Pulls and pushes -/

theorem pullFails_iff : pullFails s = true ↔ s.src.present = false ∨ s.src.errAt = some s.spos := by
  simp [pullFails]

theorem pushFails_iff : pushFails s = true ↔ s.snk.present = false ∨ s.snk.cap = some s.snk.data.length := by
  simp [pushFails]

theorem srcPull_of_pullFails (h : pullFails s = true) : srcPull s = .raise .ioError s := by
  rcases srcPull_cases s with ⟨hr, -⟩ | ⟨-, hp, he, -⟩ | ⟨_, -, hp, he, -⟩
  · exact hr
  all_goals simp [pullFails, hp, he] at h

/-- A pull that does not fail gives what stands at `SPOS`, or the end (R52). -/
theorem srcPull_of_not_pullFails (h : pullFails s = false) :
    (s.src.data.length ≤ s.spos ∧ srcPull s = .ok none s) ∨
      ∃ b, s.src.data[s.spos]? = some b ∧ srcPull s = .ok (some b) (s.withSpos (s.spos + 1)) := by
  rcases srcPull_cases s with ⟨-, hf⟩ | ⟨hr, -, -, hle⟩ | ⟨b, hr, -, -, hb⟩
  · simp [pullFails_iff.mpr hf] at h
  · exact .inl ⟨hle, hr⟩
  · exact .inr ⟨b, hb, hr⟩

theorem snkPush_of_pushFails (h : pushFails s = true) (b : Byte) : snkPush b s = .raise .ioError s := by
  rcases snkPush_cases b s with ⟨hr, -⟩ | ⟨-, hp, hc⟩
  · exact hr
  · simp [pushFails, hp, hc] at h

theorem snkPush_of_not_pushFails (h : pushFails s = false) (b : Byte) :
    snkPush b s = .ok () (s.withSnkData (s.snk.data ++ [b])) := by
  rcases snkPush_cases b s with ⟨-, hf⟩ | ⟨hr, -⟩
  · simp [pushFails_iff.mpr hf] at h
  · exact hr

/-! ## Opening -/

theorem openrBody_of_no_source (hd : s.dir = .closed) (hp : s.src.present = false) :
    openrBody s = .raise .ioError s := by
  simp [openrBody, hd, hp]

theorem openrBody_of_source (hd : s.dir = .closed) (hp : s.src.present = true) : openrBody s = .ok () s.opened := by
  simp [openrBody, srcRewind, hd, hp, State.opened, State.withChan, State.withSpos]

theorem openwBody_of_no_sink (hd : s.dir = .closed) (hp : s.snk.present = false) :
    openwBody s = .raise .ioError s := by
  simp [openwBody, hd, hp]

theorem openwBody_of_sink (hd : s.dir = .closed) (hp : s.snk.present = true) :
    openwBody s = .ok () (s.withChan .write 0#8 ⟨0, by decide⟩) := by
  simp [openwBody, hd, hp]

/-! ## Closing -/

/-- `CLOSE` of a write channel that holds bits pushes them and closes the channel. -/
theorem closeBody_of_push (hd : s.dir = .write) (hc : 0 < s.cnt.val) (hp : pushFails s = false) :
    closeBody s = .ok () (closeChan (s.withSnkData (s.snk.data ++ [s.buf]))) := by
  have hp' : pushFails (s.withBuf 0#8 ⟨0, by decide⟩) = false := hp
  rw [closeBody, if_pos hd, flush, if_pos hc, snkPush_of_not_pushFails hp']
  rfl

/-- When that push fails the channel is closed all the same (R122). -/
theorem closeBody_of_pushFails (hd : s.dir = .write) (hc : 0 < s.cnt.val) (hp : pushFails s = true) :
    closeBody s = .raise .ioError (closeChan s) := by
  have hp' : pushFails (s.withBuf 0#8 ⟨0, by decide⟩) = true := hp
  rw [closeBody, if_pos hd, flush, if_pos hc, snkPush_of_pushFails hp']
  rfl

/-- With no bit waiting to be written `CLOSE` only closes the channel. -/
theorem closeBody_of_nothing_buffered (h : s.dir ≠ .write ∨ s.cnt.val = 0) : closeBody s = .ok () (closeChan s) := by
  unfold closeBody
  split
  case isTrue hd =>
    have hc : ¬ 0 < s.cnt.val := by simpa [hd] using h
    rw [flush, if_neg hc]
    rfl
  case isFalse => rfl

end

end Sys2Proof.Machine
end

section
/-! PROOF. `BC.DIR` along a command (40_bitchannel.md R124; 60_exceptions.md R216): what is tested first, and in which
direction each operation leaves the channel and with which failures it can end once that test has passed. -/

namespace Sys2Proof.Machine

/-- The operation completes with the channel in direction `d`, or raises one of the failures `fs`. -/
def Res.EndsIn {α : Type} (d : Dir) (fs : List Failure) : Res α → Prop
  | .ok _ t => t.dir = d
  | .raise f _ => f ∈ fs
  | .stuck _ => True

section
variable {α β : Type} {d e : Dir} {fs gs : List Failure} {r : Res α}

theorem Res.EndsIn.raise {f : Failure} {s : State} (h : f ∈ fs) : (Res.raise f s : Res α).EndsIn d fs := h

theorem Res.EndsIn.mono (h : r.EndsIn d fs) (hs : fs ⊆ gs) : r.EndsIn d gs := by
  cases r with
  | ok a t => exact h
  | raise f t => exact hs h
  | stuck e => trivial

theorem Res.EndsIn.bind {k : α → State → Res β} (h : r.EndsIn d fs) (hs : fs ⊆ gs)
    (hk : ∀ a t, t.dir = d → (k a t).EndsIn e gs) : (r.bind k).EndsIn e gs := by
  cases r with
  | ok a t => exact hk a t h
  | raise f t => exact hs h
  | stuck e => trivial

theorem Res.EndsIn.onEnd {f : Failure} (h : r.EndsIn d fs) (hf : f ∈ gs)
    (hs : ∀ g ∈ fs, g ≠ .endOfStream → g ∈ gs) : (r.onEnd f).EndsIn d gs := by
  cases r with
  | ok a t => exact h
  | raise g t =>
    rw [Res.onEnd_raise]
    split
    case isTrue => exact hf
    case isFalse hg => exact hs g h hg
  | stuck e => trivial

theorem Res.EndsIn.finally {g : State → State} (h : r.EndsIn d fs) (hg : ∀ t, (g t).dir = e) :
    (r.finally g).EndsIn e fs := by
  cases r with
  | ok a t => exact hg t
  | raise f t => exact h
  | stuck e => trivial

theorem Res.EndsIn.zero {r : Res Unit} (h : r.EndsIn d fs) : r.zero.EndsIn d fs :=
  h.bind (List.Subset.refl fs) fun _ _ ht => ht

end

/-! ## The shared operations -/

section
variable {s : State} {d : Dir}

theorem srcPull_endsIn (hd : s.dir = d) : (srcPull s).EndsIn d [.ioError] := by
  rcases srcPull_cases s with ⟨h, -⟩ | ⟨h, -⟩ | ⟨b, h, -⟩ <;> rw [h]
  · exact .raise (by decide)
  · exact hd
  · exact hd

theorem srcRewind_endsIn (hd : s.dir = d) : (srcRewind s).EndsIn d [.ioError] := by
  unfold srcRewind
  split
  · exact .raise (by decide)
  · exact hd

theorem snkPush_endsIn (b : Byte) (hd : s.dir = d) : (snkPush b s).EndsIn d [.ioError] := by
  rcases snkPush_cases b s with ⟨h, -⟩ | ⟨h, -⟩ <;> rw [h]
  · exact .raise (by decide)
  · exact hd

theorem readBit_endsIn (hd : s.dir = .read) : (readBit s).EndsIn .read [.ioError, .endOfStream] := by
  unfold readBit
  rw [if_neg (not_not_intro hd)]
  split
  · refine (srcPull_endsIn hd).bind (by decide) fun r t ht => ?_
    cases r with
    | none => exact .raise (by decide)
    | some b => exact ht
  · exact hd

theorem readBits_endsIn (n : Nat) (v : Byte) (hd : s.dir = .read) :
    (readBits n v s).EndsIn .read [.ioError, .endOfStream] := by
  induction n generalizing v s with
  | zero => exact hd
  | succ n ih => exact (readBit_endsIn hd).bind (List.Subset.refl _) fun b t ht => ih _ ht

theorem writeBit_endsIn (b : Bool) (hd : s.dir = .write) : (writeBit b s).EndsIn .write [.ioError] := by
  unfold writeBit
  rw [if_neg (not_not_intro hd)]
  split
  · dsimp only
    split
    · exact snkPush_endsIn _ hd
    · exact hd
  · trivial

theorem writeBits_endsIn (l : List Bool) (hd : s.dir = .write) : (writeBits l s).EndsIn .write [.ioError] := by
  induction l generalizing s with
  | nil => exact hd
  | cons b l ih => exact (writeBit_endsIn b hd).bind (List.Subset.refl _) fun _ t ht => ih ht

theorem flush_endsIn (hd : s.dir = d) : (flush s).EndsIn d [.ioError] := by
  unfold flush
  split
  · exact snkPush_endsIn _ hd
  · exact hd

@[simp] theorem closeChan_dir (s : State) : (closeChan s).dir = .closed := rfl

theorem release_dir (s : State) : (release s).dir = .closed := by
  unfold release
  split
  · split <;> rfl
  · rfl

theorem readFt_endsIn (v : Byte) (hd : s.dir = d) : (readFt v s).EndsIn d [] := by
  unfold readFt
  split
  · trivial
  · exact hd

theorem readNode_endsIn (h : NodeIx) (hd : s.dir = d) : (readNode h s).EndsIn d [] := by
  unfold readNode
  split
  · trivial
  · exact hd

theorem readCt_endsIn (x : Sym) (hd : s.dir = d) : (readCt x s).EndsIn d [] := by
  unfold readCt
  split
  · trivial
  · exact hd

theorem follow_endsIn (h : Handle) (hd : s.dir = d) : (follow h s).EndsIn d [] := by
  cases h with
  | none => trivial
  | some h => exact hd

theorem alloc_endsIn (e : Node) (hd : s.dir = d) : (alloc e s).EndsIn d [] := by
  rcases alloc_cases e s with ⟨-, h⟩ | ⟨_, h⟩ <;> rw [h]
  · trivial
  · exact hd

/-! ## Opening and closing -/

theorem openrBody_endsIn (s : State) : (openrBody s).EndsIn .read [.ioError, .notReady] := by
  unfold openrBody
  split
  · exact .raise (by decide)
  · split
    · exact .raise (by decide)
    · exact (srcRewind_endsIn rfl).bind (by decide) fun _ _ _ => rfl

theorem openwBody_endsIn (s : State) : (openwBody s).EndsIn .write [.ioError, .notReady] := by
  unfold openwBody
  split
  · exact .raise (by decide)
  · split
    · exact .raise (by decide)
    · exact rfl

theorem closeBody_endsIn (s : State) : (closeBody s).EndsIn .closed [.ioError] := by
  unfold closeBody
  split
  · exact (flush_endsIn rfl).finally closeChan_dir
  · exact rfl

/-! ## The tables -/

theorem freqLoop_endsIn (n : Nat) (hd : s.dir = d) : (freqLoop n s).EndsIn d [.ioError] := by
  induction n generalizing s with
  | zero => trivial
  | succ n ih =>
    refine (srcPull_endsIn hd).bind (List.Subset.refl _) fun r t ht => ?_
    cases r with
    | none => exact ht
    | some b => exact (readFt_endsIn b ht).bind (List.nil_subset _) fun c u hu => ih hu

theorem freqBody_endsIn (hd : s.dir = d) : (freqBody s).EndsIn d [.ioError, .notReady] := by
  unfold freqBody
  split
  · exact .raise (by decide)
  · exact .bind (srcRewind_endsIn hd) (by decide) fun _ t ht =>
      .bind (freqLoop_endsIn _ ht) (by decide) fun _ _ hu => hu

theorem allocLeaves_endsIn (l : List (Sym × Nat)) (q : List QEntry) (hd : s.dir = d) :
    (allocLeaves l q s).EndsIn d [] := by
  induction l generalizing q s with
  | nil => exact hd
  | cons p l ih => exact (alloc_endsIn _ hd).bind (List.nil_subset _) fun h t ht => ih _ ht

theorem mergeLoop_endsIn (n : Nat) (q : List QEntry) (hd : s.dir = d) : (mergeLoop n q s).EndsIn d [] := by
  induction n generalizing q s with
  | zero => trivial
  | succ n ih =>
    unfold mergeLoop
    split
    · trivial
    · split
      · exact hd
      · exact (alloc_endsIn _ hd).bind (List.nil_subset _) fun h t ht => ih _ ht

theorem buildBody_endsIn (hd : s.dir = d) : (buildBody s).EndsIn d [.notReady] := by
  unfold buildBody
  split
  · exact .raise (by decide)
  · split
    · trivial
    · exact .bind (allocLeaves_endsIn _ _ hd) (List.nil_subset _) fun q t ht =>
        .bind (mergeLoop_endsIn _ q ht) (List.nil_subset _) fun _ _ hu => hu

theorem codesWalk_endsIn (n : Nat) (h : NodeIx) (c : List Bool) (hd : s.dir = d) : (codesWalk n h c s).EndsIn d [] := by
  induction n generalizing h c s with
  | zero => trivial
  | succ n ih =>
    refine (readNode_endsIn h hd).bind (List.nil_subset _) fun e t ht => ?_
    split
    · exact ht
    · exact (follow_endsIn e.left ht).bind (List.nil_subset _) fun l t ht =>
        (ih l _ ht).bind (List.nil_subset _) fun _ t ht =>
          (follow_endsIn e.right ht).bind (List.nil_subset _) fun r t ht => ih r _ ht

theorem codesBody_endsIn (hd : s.dir = d) : (codesBody s).EndsIn d [.notReady] := by
  unfold codesBody
  split
  · exact .raise (by decide)
  · exact .bind (follow_endsIn s.root hd) (List.nil_subset _) fun r t ht =>
      .bind (codesWalk_endsIn _ r [] ht) (List.nil_subset _) fun _ _ hu => hu

/-! ## Headers -/

theorem serWalk_endsIn (n : Nat) (h : NodeIx) (hd : s.dir = .write) : (serWalk n h s).EndsIn .write [.ioError] := by
  induction n generalizing h s with
  | zero => trivial
  | succ n ih =>
    refine (readNode_endsIn h hd).bind (List.nil_subset _) fun e t ht => ?_
    split
    · exact writeBits_endsIn _ ht
    · exact (writeBits_endsIn _ ht).bind (List.Subset.refl _) fun _ t ht =>
        (follow_endsIn e.left ht).bind (List.nil_subset _) fun l t ht =>
          (ih l ht).bind (List.Subset.refl _) fun _ t ht =>
            (follow_endsIn e.right ht).bind (List.nil_subset _) fun r t ht => ih r ht

theorem sertreeBody_endsIn (hd : s.dir = .write) : (sertreeBody s).EndsIn .write [.ioError, .notReady] := by
  unfold sertreeBody
  rw [if_neg (not_not_intro hd)]
  split
  · exact .raise (by decide)
  · exact (follow_endsIn s.root hd).bind (List.nil_subset _) fun r t ht => (serWalk_endsIn _ r ht).mono (by decide)

theorem readToken_endsIn (hd : s.dir = .read) : (readToken s).EndsIn .read [.ioError, .endOfStream] := by
  refine (readBit_endsIn hd).bind (List.Subset.refl _) fun f t ht => ?_
  split
  · refine (readBit_endsIn ht).bind (List.Subset.refl _) fun g u hu => ?_
    split
    · exact hu
    · exact (readBits_endsIn 8 0#8 hu).bind (List.Subset.refl _) fun _ _ hv => hv
  · exact ht

theorem setLeft_endsIn (h l : NodeIx) (hd : s.dir = d) : (setLeft h l s).EndsIn d [] :=
  (readNode_endsIn h hd).bind (List.nil_subset _) fun _ _ ht => ht

theorem setRight_endsIn (h r : NodeIx) (hd : s.dir = d) : (setRight h r s).EndsIn d [] :=
  (readNode_endsIn h hd).bind (List.nil_subset _) fun _ _ ht => ht

theorem returnTree_endsIn (st : List Frame) (r : NodeIx) (hd : s.dir = d) : (returnTree st r s).EndsIn d [] := by
  induction st generalizing r s with
  | nil => exact hd
  | cons f st ih =>
    cases f with
    | left h => exact (setLeft_endsIn h r hd).bind (List.nil_subset _) fun _ _ ht => ht
    | right h => exact (setRight_endsIn h r hd).bind (List.nil_subset _) fun _ _ ht => ih h ht

theorem parseInt_endsIn (p : HeaderParse) (hd : s.dir = d) : (parseInt p s).EndsIn d [.corruptHeader] := by
  unfold parseInt
  split
  · exact (alloc_endsIn _ hd).bind (List.nil_subset _) fun _ _ ht => ht
  · exact .raise (by decide)

theorem parseLeaf_endsIn (x : Sym) (p : HeaderParse) (hd : s.dir = d) : (parseLeaf x p s).EndsIn d [.corruptHeader] := by
  unfold parseLeaf
  split
  · exact .raise (by decide)
  · exact (alloc_endsIn _ hd).bind (List.nil_subset _) fun n t ht =>
      (returnTree_endsIn p.stack n ht).bind (List.nil_subset _) fun _ _ hu => hu

theorem parseToken_endsIn (tok : Token) (p : HeaderParse) (hd : s.dir = d) :
    (parseToken tok p s).EndsIn d [.corruptHeader] := by
  cases tok with
  | int => exact parseInt_endsIn p hd
  | leafb b => exact parseLeaf_endsIn _ p hd
  | leaft => exact parseLeaf_endsIn _ p hd

theorem parseLoop_endsIn (n : Nat) (p : HeaderParse) (hd : s.dir = .read) :
    (parseLoop n p s).EndsIn .read [.ioError, .endOfStream, .corruptHeader] := by
  induction n generalizing p s with
  | zero => trivial
  | succ n ih =>
    refine (readToken_endsIn hd).bind (by decide) fun tok t ht =>
      (parseToken_endsIn tok p ht).bind (by decide) fun q u hu => ?_
    split
    · exact hu
    · exact ih q.1 hu

theorem parseEnd_endsIn (p : HeaderParse) (r : NodeIx) (hd : s.dir = d) : (parseEnd p r s).EndsIn d [.corruptHeader] := by
  unfold parseEnd
  split
  · exact hd
  · exact .raise (by decide)

theorem destreeBody_endsIn (hd : s.dir = .read) : (destreeBody s).EndsIn .read [.ioError, .corruptHeader] := by
  unfold destreeBody
  rw [if_neg (not_not_intro hd)]
  exact .bind (.onEnd (parseLoop_endsIn _ _ hd) (by decide) (by decide)) (List.Subset.refl _) fun q t ht =>
    (parseEnd_endsIn q.1 q.2 ht).mono (by decide)

/-! ## The encoder and the decoder -/

theorem putCode_endsIn (x : Sym) (hd : s.dir = .write) : (putCode x s).EndsIn .write [.ioError] :=
  (readCt_endsIn x hd).bind (List.nil_subset _) fun e _ ht => writeBits_endsIn e.code ht

theorem putsymBody_endsIn (v : Byte) (hd : s.dir = .write) : (putsymBody v s).EndsIn .write [.ioError, .notReady] := by
  unfold putsymBody
  rw [if_neg (not_not_intro hd)]
  split
  · exact .raise (by decide)
  · refine (readCt_endsIn _ hd).bind (List.nil_subset _) fun e t ht => ?_
    split
    · exact (putCode_endsIn _ ht).mono (by decide)
    · exact .raise (by decide)

theorem puttermBody_endsIn (hd : s.dir = .write) : (puttermBody s).EndsIn .write [.ioError, .notReady] := by
  unfold puttermBody
  rw [if_neg (not_not_intro hd)]
  split
  · exact .raise (by decide)
  · exact (putCode_endsIn _ hd).mono (by decide)

theorem encodeLoop_endsIn (n : Nat) (hd : s.dir = .write) : (encodeLoop n s).EndsIn .write [.ioError, .notReady] := by
  induction n generalizing s with
  | zero => trivial
  | succ n ih =>
    refine (srcPull_endsIn hd).bind (by decide) fun r t ht => ?_
    cases r with
    | none => exact ht
    | some b => exact (putsymBody_endsIn b ht).bind (List.Subset.refl _) fun _ u hu => ih hu

/-- Inside `COMPRESS` the channel is opened for writing before anything is written (R188, R189). -/
theorem compressSteps_endsIn (s : State) : (compressSteps s).EndsIn .closed [.ioError, .notReady] :=
  (freqBody_endsIn rfl).bind (List.Subset.refl _) fun _ _ ht => (buildBody_endsIn ht).bind (by decide) fun _ _ ht =>
    (codesBody_endsIn ht).bind (by decide) fun _ t _ => (openwBody_endsIn t).bind (List.Subset.refl _) fun _ _ ht =>
    (sertreeBody_endsIn ht).bind (List.Subset.refl _) fun _ _ ht => (srcRewind_endsIn ht).bind (by decide) fun _ _ ht =>
    (encodeLoop_endsIn _ ht).bind (List.Subset.refl _) fun _ _ ht =>
    (puttermBody_endsIn ht).bind (List.Subset.refl _) fun _ t _ => (closeBody_endsIn t).mono (by decide)

theorem macroReady_endsIn (hd : s.dir = .closed) : (macroReady s).EndsIn .closed [.ioError] := by
  unfold macroReady
  rw [if_neg (not_not_intro hd)]
  split
  · exact .raise (by decide)
  · split
    · exact .raise (by decide)
    · exact hd

theorem compressBody_endsIn (hd : s.dir = .closed) : (compressBody s).EndsIn .closed [.ioError, .notReady] :=
  (macroReady_endsIn hd).bind (by decide) fun _ t _ => (compressSteps_endsIn t).finally release_dir

theorem getWalk_endsIn (n : Nat) (h : NodeIx) (hd : s.dir = .read) :
    (getWalk n h s).EndsIn .read [.ioError, .truncatedStream] := by
  induction n generalizing h s with
  | zero => trivial
  | succ n ih =>
    refine (readNode_endsIn h hd).bind (List.nil_subset _) fun e t ht => ?_
    split
    · exact ht
    · exact ((readBit_endsIn ht).onEnd (by decide) (by decide)).bind (List.Subset.refl _) fun b t ht =>
        (follow_endsIn _ ht).bind (List.nil_subset _) fun g t ht => ih g ht

theorem getsymBody_endsIn (hd : s.dir = .read) :
    (getsymBody s).EndsIn .read [.ioError, .truncatedStream, .notReady] := by
  unfold getsymBody
  rw [if_neg (not_not_intro hd)]
  split
  · exact .raise (by decide)
  · exact (follow_endsIn s.root hd).bind (List.nil_subset _) fun r t ht => (getWalk_endsIn _ r ht).mono (by decide)

theorem decodeLoop_endsIn (n : Nat) (hd : s.dir = .read) :
    (decodeLoop n s).EndsIn .read [.ioError, .truncatedStream, .notReady] := by
  induction n generalizing s with
  | zero => trivial
  | succ n ih =>
    refine (getsymBody_endsIn hd).bind (List.Subset.refl _) fun x t ht => ?_
    split
    · exact ht
    · exact (snkPush_endsIn _ ht).bind (by decide) fun _ u hu => ih hu

/-- Inside `DECOMPRESS` the channel is opened for reading before anything is read (R203). -/
theorem decompressSteps_endsIn (s : State) :
    (decompressSteps s).EndsIn .closed [.ioError, .corruptHeader, .truncatedStream, .notReady] :=
  (openrBody_endsIn s).bind (by decide) fun _ _ ht => (destreeBody_endsIn ht).bind (by decide) fun _ _ ht =>
    (decodeLoop_endsIn _ ht).bind (by decide) fun _ t _ => (closeBody_endsIn t).mono (by decide)

theorem decompressBody_endsIn (hd : s.dir = .closed) :
    (decompressBody s).EndsIn .closed [.ioError, .corruptHeader, .truncatedStream, .notReady] :=
  (macroReady_endsIn hd).bind (by decide) fun _ t _ => (decompressSteps_endsIn t).finally fun _ => rfl

end

/-! ## The direction table -/

/-- The direction a command asks for, where it asks for one (R124). -/
def neededDir : Instr → Option Dir
  | .openr | .openw | .compress | .decompress => some .closed
  | .rdbit | .rdbyte | .destree | .getsym => some .read
  | .wrbit _ | .wrbyte _ | .sertree | .putsym _ | .putterm => some .write
  | .close | .freq | .build | .codes | .int | .leafb _ | .leaft => none

/-- What a command that needs direction `d` ends with in another one (R124): an open channel is not ready to be opened. -/
def wrongDir : Dir → Failure
  | .closed => .notReady
  | .read | .write => .invalidDirection

/-- The failing rows of the direction table: a direction other than the needed one, and `FREQ` on a read channel. -/
theorem dirFailure_eq_some_iff {i : Instr} {d : Dir} {f : Failure} :
    dirFailure i d = some f ↔
      (∃ n, neededDir i = some n ∧ d ≠ n ∧ f = wrongDir n) ∨ (i = .freq ∧ d = .read ∧ f = .notReady) := by
  cases i <;> cases d <;> simp [dirFailure, neededDir, wrongDir, eq_comm]

/-- A command that proceeds has the direction it asks for. -/
theorem dir_of_dirFailure_eq_none {i : Instr} {d n : Dir} (h : dirFailure i d = none) (hn : neededDir i = some n) :
    d = n := by
  by_contra hd
  cases (dirFailure_eq_some_iff.mpr (.inl ⟨n, hn, hd, rfl⟩)).symm.trans h

/-- Without the direction it asks for, a command's body raises at once (R124, R219, R220). -/
theorem commandBody?_of_wrong_dir {s : State} : ∀ {i : Instr} {body : State → Res Sym} {n : Dir},
    commandBody? i = some body → neededDir i = some n → s.dir ≠ n → body s = .raise (wrongDir n) s
  | .openr, _, _, rfl, rfl, hd => by simp [openrBody, hd, Res.zero, wrongDir]
  | .openw, _, _, rfl, rfl, hd => by simp [openwBody, hd, Res.zero, wrongDir]
  | .compress, _, _, rfl, rfl, hd => by simp [compressBody, macroReady, hd, Res.zero, wrongDir]
  | .decompress, _, _, rfl, rfl, hd => by simp [decompressBody, macroReady, hd, Res.zero, wrongDir]
  | .rdbit, _, _, rfl, rfl, hd => by simp [readBit, hd, wrongDir]
  | .rdbyte, _, _, rfl, rfl, hd => by simp [readByte, readBits, readBit, hd, wrongDir]
  | .destree, _, _, rfl, rfl, hd => by simp [destreeBody, hd, Res.zero, wrongDir]
  | .getsym, _, _, rfl, rfl, hd => by simp [getsymBody, hd, wrongDir]
  | .wrbit b, _, _, rfl, rfl, hd => by simp [writeBit, hd, Res.zero, wrongDir]
  | .wrbyte v, _, _, rfl, rfl, hd => by simp [writeByte, byteBits, writeBits, writeBit, hd, Res.zero, wrongDir]
  | .sertree, _, _, rfl, rfl, hd => by simp [sertreeBody, hd, Res.zero, wrongDir]
  | .putsym v, _, _, rfl, rfl, hd => by simp [putsymBody, hd, Res.zero, wrongDir]
  | .putterm, _, _, rfl, rfl, hd => by simp [puttermBody, hd, Res.zero, wrongDir]

/-- Without the direction it asks for, a command is the entry of that failure. -/
theorem exec_of_wrong_dir {i : Instr} {n : Dir} {s : State} (hn : neededDir i = some n) (hd : s.dir ≠ n) :
    exec i s = .next (endFail (wrongDir n) s) := by
  have hi : i.isCommand = true := by
    cases i with
    | int | leafb | leaft => cases hn
    | _ => rfl
  obtain ⟨body, hb, hexec⟩ := exec_eq_finish hi
  rw [hexec, commandBody?_of_wrong_dir hb hn hd]
  rfl

/-- Where the direction table names a failure the command is its entry (R124). -/
theorem exec_of_dirFailure {i : Instr} {s : State} {f : Failure} (h : dirFailure i s.dir = some f) :
    exec i s = .next (endFail f s) := by
  rcases dirFailure_eq_some_iff.mp h with ⟨n, hn, hd, rfl⟩ | ⟨rfl, hd, rfl⟩
  · exact exec_of_wrong_dir hn hd
  · simp [exec, execFreq, freqBody, hd, finishUnit, finish]

/-- Once the direction is the one asked for, a command raises only the other failures of its row of R216. -/
theorem commandBody?_endsIn {s : State} : ∀ {i : Instr} {body : State → Res Sym}, commandBody? i = some body →
    (∀ n, neededDir i = some n → s.dir = n) → ∃ d, (body s).EndsIn d ((canFail i).filter (· ≠ .invalidDirection))
  | .openr, _, rfl, _ => ⟨_, (openrBody_endsIn s).zero⟩
  | .openw, _, rfl, _ => ⟨_, (openwBody_endsIn s).zero⟩
  | .rdbit, _, rfl, hd => ⟨_, (readBit_endsIn (hd _ rfl)).bind (List.Subset.refl _) fun _ _ ht => ht⟩
  | .rdbyte, _, rfl, hd => ⟨_, (readBits_endsIn 8 0#8 (hd _ rfl)).bind (List.Subset.refl _) fun _ _ ht => ht⟩
  | .wrbit b, _, rfl, hd => ⟨_, (writeBit_endsIn b (hd _ rfl)).zero⟩
  | .wrbyte v, _, rfl, hd => ⟨_, (writeBits_endsIn (byteBits v) (hd _ rfl)).zero⟩
  | .close, _, rfl, _ => ⟨_, (closeBody_endsIn s).zero⟩
  | .freq, _, rfl, _ => ⟨_, (freqBody_endsIn rfl).zero⟩
  | .build, _, rfl, _ => ⟨_, (buildBody_endsIn rfl).zero⟩
  | .codes, _, rfl, _ => ⟨_, (codesBody_endsIn rfl).zero⟩
  | .sertree, _, rfl, hd => ⟨_, (sertreeBody_endsIn (hd _ rfl)).zero⟩
  | .destree, _, rfl, hd => ⟨_, (destreeBody_endsIn (hd _ rfl)).zero⟩
  | .putsym v, _, rfl, hd => ⟨_, (putsymBody_endsIn v (hd _ rfl)).zero⟩
  | .putterm, _, rfl, hd => ⟨_, (puttermBody_endsIn (hd _ rfl)).zero⟩
  | .getsym, _, rfl, hd => ⟨_, getsymBody_endsIn (hd _ rfl)⟩
  | .compress, _, rfl, hd => ⟨_, (compressBody_endsIn (hd _ rfl)).zero⟩
  | .decompress, _, rfl, hd => ⟨_, (decompressBody_endsIn (hd _ rfl)).zero⟩

/-- A command that the direction table lets proceed fails only as its row of R216 says, and not with `InvalidDirection`. -/
theorem failure_of_dirFailure_eq_none {i : Instr} {s t : State} {f : Failure} (hi : i.isCommand = true)
    (hd : dirFailure i s.dir = none) (h : exec i s = .next t) (hf : t.status = .failed f) :
    f ∈ canFail i ∧ f ≠ .invalidDirection := by
  obtain ⟨body, hb, ⟨v, u, -, -, rfl⟩ | ⟨g, u, hbody, -, rfl⟩⟩ := exec_eq_next hi h
  · cases hf
  · cases hf
    obtain ⟨d, hends⟩ := commandBody?_endsIn hb fun n hn => dir_of_dirFailure_eq_none hd hn
    rw [hbody] at hends
    simpa using List.mem_filter.mp hends

/-- Settles O13: the failing rows raise before anything else is looked at, the others are run with the channel's direction
followed to the end, and closing a closed channel writes what is there already. -/
theorem directionIsTestedFirst : Obligations.DirectionIsTestedFirst := by
  unfold Obligations.DirectionIsTestedFirst
  refine ⟨fun i s f h => ⟨_, exec_of_dirFailure h, endFail_onlyFails f s⟩, ?_, ?_⟩
  · intro i s t hi hd h hf
    exact (failure_of_dirFailure_eq_none hi hd h hf).2 rfl
  · rintro s hd ⟨hclosed, -⟩
    obtain ⟨hbuf, hcnt⟩ := hclosed hd
    refine ⟨_, finishUnit_of_eq_ok (closeBody_of_nothing_buffered (.inr hcnt)), (closeChan_bodyFrame s).endsOk 0,
      ⟨hd.symm, hbuf.symm, Fin.ext hcnt.symm⟩, ⟨rfl, rfl, rfl⟩, ⟨rfl, ⟨rfl, rfl, rfl⟩, rfl⟩,
      ⟨rfl, rfl, rfl, rfl⟩, rfl, rfl⟩

end Sys2Proof.Machine
end

section
/-! PROOF. `OPENR`, `OPENW` and `CLOSE` (40_bitchannel.md R116, R117, R122). -/

namespace Sys2Proof.Machine

/-- Settles O17: a wrong direction, an absent source, and the channel opened at byte 0. -/
theorem openrOpensAtByteZero : Obligations.OpenrOpensAtByteZero := by
  unfold Obligations.OpenrOpensAtByteZero
  refine fun s => ⟨fun hd => ?_, fun hd hp => ?_, fun hd hp => ?_⟩
  · exact ⟨_, exec_of_wrong_dir rfl hd, endFail_onlyFails _ s⟩
  · exact ⟨_, finishUnit_of_eq_raise (openrBody_of_no_source hd hp), endFail_onlyFails _ s⟩
  · exact ⟨_, finishUnit_of_eq_ok (openrBody_of_source hd hp),
      (((BodyFrame.refl s).withChan _ _ _).withSpos 0).endsOk 0, rfl, rfl, rfl, rfl,
      ⟨rfl, rfl, rfl⟩, ⟨rfl, ⟨rfl, rfl, rfl⟩, rfl⟩, ⟨rfl, rfl, rfl, rfl⟩, rfl⟩

/-- Settles O18: a wrong direction, an absent sink, and the channel opened with the sink as it is. -/
theorem openwKeepsTheSink : Obligations.OpenwKeepsTheSink := by
  unfold Obligations.OpenwKeepsTheSink
  refine fun s => ⟨fun hd => ?_, fun hd hp => ?_, fun hd hp => ?_⟩
  · exact ⟨_, exec_of_wrong_dir rfl hd, endFail_onlyFails _ s⟩
  · exact ⟨_, finishUnit_of_eq_raise (openwBody_of_no_sink hd hp), endFail_onlyFails _ s⟩
  · exact ⟨_, finishUnit_of_eq_ok (openwBody_of_sink hd hp), ((BodyFrame.refl s).withChan _ _ _).endsOk 0, rfl, rfl, rfl,
      rfl, ⟨rfl, rfl, rfl⟩, ⟨rfl, ⟨rfl, rfl, rfl⟩, rfl⟩, ⟨rfl, rfl, rfl, rfl⟩, rfl⟩

/-- Settles O24: whether bits wait in a write channel, and whether their push fails. -/
theorem closeFlushesAndAlwaysCloses : Obligations.CloseFlushesAndAlwaysCloses := by
  unfold Obligations.CloseFlushesAndAlwaysCloses
  intro s
  by_cases hw : s.dir = .write ∧ 0 < s.cnt.val
  · obtain ⟨hd, hc⟩ := hw
    have hbits : ¬ (s.dir ≠ .write ∨ s.cnt.val = 0) := by simp [hd]; omega
    cases hp : pushFails s with
    | false =>
      refine ⟨_, finishUnit_of_eq_ok (closeBody_of_push hd hc hp), rfl, rfl, rfl, rfl, ⟨rfl, rfl, rfl⟩,
        ⟨rfl, ⟨rfl, rfl, rfl⟩, rfl⟩, ⟨rfl, rfl, rfl, rfl⟩, fun _ _ _ => ⟨?_, rfl⟩, nofun,
        fun h => absurd h hbits⟩
      exact BodyFrame.endsOk (by constructor <;> rfl) 0
    | true =>
      exact ⟨_, finishUnit_of_eq_raise (closeBody_of_pushFails hd hc hp), rfl, rfl, rfl, rfl, ⟨rfl, rfl, rfl⟩,
        ⟨rfl, ⟨rfl, rfl, rfl⟩, rfl⟩, ⟨rfl, rfl, rfl, rfl⟩, nofun,
        fun _ _ _ => ⟨(closeChan_bodyFrame s).endsFailed _, rfl⟩, fun h => absurd h hbits⟩
  · have hnone : s.dir ≠ .write ∨ s.cnt.val = 0 := by
      rcases not_and_or.mp hw with hd | hc
      · exact .inl hd
      · exact .inr (by omega)
    exact ⟨_, finishUnit_of_eq_ok (closeBody_of_nothing_buffered hnone), rfl, rfl, rfl, rfl, ⟨rfl, rfl, rfl⟩,
      ⟨rfl, ⟨rfl, rfl, rfl⟩, rfl⟩, ⟨rfl, rfl, rfl, rfl⟩, fun hd hc => absurd ⟨hd, hc⟩ hw,
      fun hd hc => absurd ⟨hd, hc⟩ hw,
      fun _ => ⟨(closeChan_bodyFrame s).endsOk 0, rfl⟩⟩

end Sys2Proof.Machine
end

section
/-! PROOF. `RDBIT` and `RDBYTE` (40_bitchannel.md R110 to R112, R118, R119): when `ReadBit()` completes, and where it leaves
the buffer and `SPOS`. -/

namespace Sys2Proof.Machine

section
variable {s : State}

/-! ## One bit -/

/-- With bits in the buffer the source is not looked at (R111). -/
theorem readBit_of_buffered (hd : s.dir = .read) (hc : 0 < s.cnt.val) : readBit s = takeBit s := by
  rw [readBit, if_neg (not_not_intro hd), if_neg (by omega)]

theorem readBit_of_pullFails (hd : s.dir = .read) (hc : s.cnt.val = 0) (hp : pullFails s = true) :
    readBit s = .raise .ioError s := by
  rw [readBit, if_neg (not_not_intro hd), if_pos hc, srcPull_of_pullFails hp]
  rfl

/-- An empty buffer and a source without a byte at `SPOS` (R111; log entry 7). -/
theorem readBit_at_end (hd : s.dir = .read) (hc : s.cnt.val = 0) (hp : pullFails s = false)
    (hs : s.src.data.length ≤ s.spos) : readBit s = .raise .endOfStream s := by
  rw [readBit, if_neg (not_not_intro hd), if_pos hc]
  rcases srcPull_of_not_pullFails hp with ⟨-, hr⟩ | ⟨b, hb, -⟩
  · rw [hr]
    rfl
  · rw [List.getElem?_eq_none hs] at hb
    cases hb

/-- An empty buffer and a byte at `SPOS`, which is pulled and its first bit taken (R111). -/
theorem readBit_of_pull (hd : s.dir = .read) (hc : s.cnt.val = 0) (hp : pullFails s = false)
    (hs : s.spos < s.src.data.length) :
    ∃ b, s.src.data[s.spos]? = some b ∧
      readBit s = .ok (b.getLsbD 7) ((s.withSpos (s.spos + 1)).withBuf b ⟨7, by decide⟩) := by
  rcases srcPull_of_not_pullFails hp with ⟨hle, -⟩ | ⟨b, hb, hr⟩
  · omega
  · refine ⟨b, hb, ?_⟩
    rw [readBit, if_neg (not_not_intro hd), if_pos hc, hr]
    rfl

/-- What `RDBIT` does when a bit can be read: it returns the next unread one (R118). -/
theorem exec_rdbit_of_readBit {b : Bool} {t : State} (h : readBit s = .ok b t) :
    exec .rdbit s = .next (endOk (bitSym b) t) ∧ EndsOk (bitSym b) s (endOk (bitSym b) t) ∧
      (bitSym b).val = b.toNat ∧ s.unread = b :: (endOk (bitSym b) t).unread ∧
      KeepsAllButReading s (endOk (bitSym b) t) := by
  have hexec : exec .rdbit s = finish ((readBit s).bind fun b s => .ok (bitSym b) s) := rfl
  have hframe : ReadFrame s t := (readBit_frame s).of_eq_ok h
  have hunread : s.unread = b :: t.unread := readBit_unread h
  refine ⟨?_, hframe.body.endsOk _, bitSym_val b, hunread, hframe.keeps⟩
  rw [hexec, h]
  rfl

theorem exec_rdbit_of_raise {f : Failure} (h : readBit s = .raise f s) : exec .rdbit s = .next (endFail f s) := by
  have hexec : exec .rdbit s = finish ((readBit s).bind fun b s => .ok (bitSym b) s) := rfl
  rw [hexec, h]
  rfl

/-! ## Eight bits -/

/-- The loop of `ReadByte()` takes its first bits from the buffer as long as it holds any (R112). -/
theorem readBits_of_buffered {m n : Nat} {v : Byte} (hd : s.dir = .read) (hm : m ≤ s.cnt.val) :
    ∃ w, readBits (n + m) v s = readBits n w (s.withBuf s.buf ⟨s.cnt.val - m, by omega⟩) := by
  induction m generalizing s v with
  | zero => exact ⟨v, rfl⟩
  | succ m ih =>
    have hfirst : readBits (n + (m + 1)) v s = (takeBit s).bind fun b s => readBits (n + m) (setBit v (n + m) b) s := by
      rw [← readBit_of_buffered hd (by omega)]
      rfl
    obtain ⟨w, hw⟩ := ih (s := s.withBuf s.buf ⟨s.cnt.val - 1, by omega⟩)
      (v := setBit v (n + m) (s.buf.getLsbD (s.cnt.val - 1))) hd (Nat.le_sub_one_of_lt hm)
    refine ⟨w, ?_⟩
    rw [hfirst, takeBit, Res.bind_ok, hw]
    simp only [State.withBuf_cnt, State.withBuf_buf, Nat.sub_sub, Nat.add_comm 1 m]
    rfl

/-- `ReadByte()` empties the buffer and goes on from there: at most seven bits are waiting, so one more byte is needed. -/
theorem readByte_of_buffered (hd : s.dir = .read) (hc : s.cnt.val ≤ 7) :
    ∃ w, readByte s = readBits (7 - s.cnt.val + 1) w (s.withBuf s.buf ⟨0, by decide⟩) := by
  obtain ⟨w, hw⟩ := readBits_of_buffered (n := 7 - s.cnt.val + 1) (v := 0#8) hd le_rfl
  have h8 : 7 - s.cnt.val + 1 + s.cnt.val = 8 := by omega
  rw [h8] at hw
  exact ⟨w, hw.trans (by simp only [Nat.sub_self])⟩

/-- When the byte needed cannot be had, the buffered bits are consumed and the failure passes on (R112). -/
theorem readByte_of_raise {f : Failure} (hd : s.dir = .read) (hc : s.cnt.val ≤ 7)
    (hr : readBit (s.withBuf s.buf ⟨0, by decide⟩) = .raise f (s.withBuf s.buf ⟨0, by decide⟩)) :
    readByte s = .raise f (s.withBuf s.buf ⟨0, by decide⟩) := by
  obtain ⟨w, hw⟩ := readByte_of_buffered hd hc
  rw [hw, readBits, hr]
  rfl

/-- When it can, it is the only byte pulled, and as many of its bits are left as were waiting before (R112). -/
theorem readByte_of_pull (hd : s.dir = .read) (hc : s.cnt.val ≤ 7) (hp : pullFails s = false)
    (hs : s.spos < s.src.data.length) :
    ∃ v b, s.src.data[s.spos]? = some b ∧ readByte s = .ok v ((s.withSpos (s.spos + 1)).withBuf b s.cnt) := by
  obtain ⟨w, hw⟩ := readByte_of_buffered hd hc
  obtain ⟨b, hb, hr⟩ := readBit_of_pull (s := s.withBuf s.buf ⟨0, by decide⟩) hd rfl hp hs
  obtain ⟨v, hv⟩ := readBits_of_buffered (n := 0) (m := 7 - s.cnt.val) (v := setBit w (7 - s.cnt.val) (b.getLsbD 7))
    (s := (s.withSpos (s.spos + 1)).withBuf b ⟨7, by decide⟩) hd (Nat.sub_le 7 _)
  refine ⟨v, b, hb, ?_⟩
  rw [hw, readBits, hr, Res.bind_ok]
  rw [Nat.zero_add] at hv
  refine hv.trans ?_
  simp only [State.withBuf_cnt, Nat.sub_sub_self hc]
  rfl

theorem exec_rdbyte_of_raise {f : Failure} {t : State} (h : readByte s = .raise f t) :
    exec .rdbyte s = .next (endFail f t) := by
  have hexec : exec .rdbyte s = finish ((readByte s).bind fun v s => .ok (byteSym v) s) := rfl
  rw [hexec, h]
  rfl

theorem exec_rdbyte_of_ok {v : Byte} {t : State} (h : readByte s = .ok v t) :
    exec .rdbyte s = .next (endOk (byteSym v) t) := by
  have hexec : exec .rdbyte s = finish ((readByte s).bind fun v s => .ok (byteSym v) s) := rfl
  rw [hexec, h]
  rfl

/-- A failing `RDBYTE` leaves the buffer's bits consumed and changes nothing else (R112, R119). -/
theorem rdbyte_fails {f : Failure} (hd : s.dir = .read) (hc : s.cnt.val ≤ 7)
    (hr : readBit (s.withBuf s.buf ⟨0, by decide⟩) = .raise f (s.withBuf s.buf ⟨0, by decide⟩)) :
    ∃ t, exec .rdbyte s = .next t ∧ EndsFailed f s t ∧ t.cnt.val = 0 ∧ t.buf = s.buf ∧ t.spos = s.spos ∧
      KeepsAllButReading s t := by
  have hframe : ReadFrame s (s.withBuf s.buf ⟨0, by decide⟩) := rfl
  exact ⟨_, exec_rdbyte_of_raise (readByte_of_raise hd hc hr), hframe.body.endsFailed f, rfl, rfl, rfl, hframe.keeps⟩

end

/-- Settles O19: the direction, then the source where the buffer is empty, then the bit, from the buffer or from the byte
pulled. -/
theorem rdbitReturnsTheNextBit : Obligations.RdbitReturnsTheNextBit := by
  unfold Obligations.RdbitReturnsTheNextBit
  refine fun s => ⟨fun hd => ?_, fun hd hc hp => ?_, fun hd hc hp hs => ?_, fun hd h => ?_⟩
  · exact ⟨_, exec_of_wrong_dir rfl hd, endFail_onlyFails _ s⟩
  · exact ⟨_, exec_rdbit_of_raise (readBit_of_pullFails hd hc hp), endFail_onlyFails _ s⟩
  · exact ⟨_, exec_rdbit_of_raise (readBit_at_end hd hc hp hs.ge), endFail_onlyFails _ s⟩
  · rcases Nat.eq_zero_or_pos s.cnt.val with hc | hc
    · obtain ⟨hp, hs⟩ := h.resolve_left (by omega)
      obtain ⟨v, hv, hr⟩ := readBit_of_pull hd hc hp hs
      obtain ⟨hexec, hends, hres, hunread, hkeeps⟩ := exec_rdbit_of_readBit hr
      exact ⟨_, _, hexec, hends, hres, hunread, fun hpos => by omega, fun _ => ⟨rfl, hv, rfl⟩, hkeeps⟩
    · obtain ⟨hexec, hends, hres, hunread, hkeeps⟩ := exec_rdbit_of_readBit (readBit_of_buffered hd hc)
      exact ⟨_, _, hexec, hends, hres, hunread, fun _ => ⟨rfl, rfl, rfl⟩, fun h0 => by omega, hkeeps⟩

/-- Settles O20: the buffered bits are taken first, and then one byte is pulled, or that pull ends the command. -/
theorem rdbyteAssemblesEightBits : Obligations.RdbyteAssemblesEightBits := by
  unfold Obligations.RdbyteAssemblesEightBits
  refine fun s => ⟨fun hd => ?_, fun hd hc hp => ?_, fun hd hc hp hs => ?_, fun hd hc hp hs => ?_⟩
  · exact ⟨_, exec_of_wrong_dir rfl hd, endFail_onlyFails _ s⟩
  · exact rdbyte_fails hd hc (readBit_of_pullFails hd rfl hp)
  · exact rdbyte_fails hd hc (readBit_at_end hd rfl hp hs.ge)
  · obtain ⟨v, b, hb, hr⟩ := readByte_of_pull hd hc hp hs
    have hframe : ReadFrame s ((s.withSpos (s.spos + 1)).withBuf b s.cnt) := rfl
    obtain ⟨l, hl, hunread, hval⟩ := readByte_unread hr
    refine ⟨_, exec_rdbyte_of_ok hr, hframe.body.endsOk _, ?_, ?_, rfl, hb, rfl, hframe.keeps⟩
    · rw [hunread, List.take_left' hl]
      exact hval
    · rw [hunread, List.drop_left' hl]
      rfl

end Sys2Proof.Machine
end

section
/-! PROOF. Bits written through the channel (10_state.md R25, R27, R66; 40_bitchannel.md R113, R114): where one goes, and
what any number of them come to as long as the sink has room, or up to the push that fails. -/

namespace Sys2Proof.Machine

/-! ## Bytes as bits -/

theorem streamBits_append (l m : List Byte) : streamBits (l ++ m) = streamBits l ++ streamBits m := List.flatMap_append

theorem length_streamBits (l : List Byte) : (streamBits l).length = 8 * l.length := by
  induction l with
  | nil => rfl
  | cons v l ih => rw [streamBits_cons, List.length_append, length_byteBits, ih, List.length_cons]; omega

/-- Bit `i` of a byte is bit `7 - i` of its stream (R12). -/
theorem getElem?_byteBits_sub (v : Byte) {i : Nat} (hi : i < 8) : (byteBits v)[7 - i]? = some (v.getLsbD i) := by
  rw [getElem?_byteBits v (by omega)]
  congr 2
  omega

theorem byteBits_injective {v w : Byte} (h : byteBits v = byteBits w) : v = w := by
  refine BitVec.eq_of_getLsbD_eq fun i hi => Option.some.inj ?_
  rw [← getElem?_byteBits_sub v hi, ← getElem?_byteBits_sub w hi, h]

/-- A byte sequence whose bits begin another one's begins it as bytes. -/
theorem prefix_of_streamBits_prefix {l m : List Byte} (h : streamBits l <+: streamBits m) : l <+: m := by
  induction l generalizing m with
  | nil => exact List.nil_prefix
  | cons v l ih =>
    cases m with
    | nil => simp [byteBits] at h
    | cons w m =>
      obtain ⟨r, hr⟩ := h
      rw [streamBits_cons, streamBits_cons, List.append_assoc] at hr
      obtain ⟨hvw, hrest⟩ := List.append_inj hr rfl
      rw [byteBits_injective hvw, List.prefix_cons_inj]
      exact ih ⟨r, hrest⟩

/-- `v[n] <- b` sets bit `n` and no other (R113). -/
theorem getLsbD_setBit (v : Byte) {n : Nat} (hn : n < 8) (b : Bool) (i : Nat) :
    (setBit v n b).getLsbD i = if i = n then b else v.getLsbD i := by
  rw [setBit_eq]
  cases b with
  | false =>
    rw [if_neg Bool.false_ne_true, BitVec.getLsbD_and, BitVec.getLsbD_not, BitVec.getLsbD_twoPow]
    rcases Nat.lt_or_ge i 8 with hi | hi
    · by_cases hin : i = n
      · simp [hin, hn]
      · simp [hin, hi, Ne.symm hin]
    · simp [BitVec.getLsbD_of_ge v i hi]
  | true =>
    rw [if_pos rfl, BitVec.getLsbD_or, BitVec.getLsbD_twoPow]
    by_cases hin : i = n
    · simp [hin, hn]
    · simp [hin, Ne.symm hin]

/-- A bit put after the first `k` bits of a byte follows them in the stream (R25, R113). -/
theorem take_byteBits_setBit (v : Byte) {k : Nat} (hk : k < 8) (b : Bool) :
    (byteBits (setBit v (7 - k) b)).take (k + 1) = (byteBits v).take k ++ [b] := by
  have hbit : (byteBits (setBit v (7 - k) b))[k]? = some b := by
    rw [getElem?_byteBits _ hk, getLsbD_setBit v (by omega), if_pos rfl]
  have htake : (byteBits (setBit v (7 - k) b)).take k = (byteBits v).take k := by
    refine List.ext_getElem? fun j => ?_
    rw [List.getElem?_take, List.getElem?_take]
    by_cases hj : j < k
    · rw [if_pos hj, if_pos hj, getElem?_byteBits _ (by omega), getElem?_byteBits _ (by omega),
        getLsbD_setBit v (by omega), if_neg (by omega)]
    · rw [if_neg hj, if_neg hj]
  rw [List.take_add_one, hbit, htake]
  rfl

/-! ## Room in the sink -/

theorem hasRoom_zero (s : State) : hasRoom 0 s = true := rfl

/-- Room for one byte more is a push that does not fail, and room for the others after it (R54). -/
theorem hasRoom_succ {s t : State} {v : Byte} (ht : t.snk = { s.snk with data := s.snk.data ++ [v] }) (n : Nat) :
    hasRoom (n + 1) s = (!pushFails s && hasRoom n t) := by
  unfold hasRoom pushFails
  rw [ht]
  cases s.snk.present with
  | false => simp
  | true =>
    cases s.snk.cap with
    | none => simp
    | some c =>
      rw [Bool.eq_iff_iff]
      simp only [Nat.add_eq_zero_iff, one_ne_zero, and_false, decide_false, Bool.true_and, Bool.false_or, Bool.or_eq_true,
        decide_eq_true_eq, Bool.not_true, Option.some.injEq, List.length_append, List.length_singleton,
        Bool.and_eq_true, Bool.not_eq_eq_eq_not, decide_eq_false_iff_not]
      omega

theorem hasRoom_one (s : State) : hasRoom 1 s = !pushFails s := by
  rw [hasRoom_succ (v := 0#8) (t := s.withSnkData (s.snk.data ++ [0#8])) rfl, hasRoom_zero, Bool.and_true]

section
variable {s t u : State} {l m : List Bool}

/-! ## Sequences of bits -/

/-- What R27 says of a write channel. -/
theorem ChannelOk.of_write (h : ChannelOk s) (hd : s.dir = .write) :
    s.cnt.val ≤ 7 ∧ ∀ i, i ≤ 7 - s.cnt.val → s.buf.getLsbD i = false := by
  obtain ⟨-, hwrite, -⟩ := h
  exact hwrite hd

theorem Appends.dir_eq (h : Appends l s t) : t.dir = s.dir := by
  obtain ⟨-, -, -, hdir, -⟩ := h
  exact hdir

theorem Appends.cnt_eq (h : Appends l s t) : t.cnt.val = (s.cnt.val + l.length) % 8 := by
  obtain ⟨-, hcnt, -⟩ := h
  exact hcnt

theorem KeepsAllButWriting.trans (h : KeepsAllButWriting s t) (k : KeepsAllButWriting t u) : KeepsAllButWriting s u := by
  obtain ⟨hdir, ⟨hft, htree, hct⟩, ⟨hftab, ⟨hnode, hncnt, hroot⟩, hctab⟩, ⟨hcfg, hsrc, hinbox, hhdr⟩, hspos, hpres,
    hcap⟩ := h
  obtain ⟨kdir, ⟨kft, ktree, kct⟩, ⟨kftab, ⟨knode, kncnt, kroot⟩, kctab⟩, ⟨kcfg, ksrc, kinbox, khdr⟩, kspos, kpres,
    kcap⟩ := k
  exact ⟨kdir.trans hdir, ⟨kft.trans hft, ktree.trans htree, kct.trans hct⟩,
    ⟨kftab.trans hftab, ⟨knode.trans hnode, kncnt.trans hncnt, kroot.trans hroot⟩, kctab.trans hctab⟩,
    ⟨kcfg.trans hcfg, ksrc.trans hsrc, kinbox.trans hinbox, khdr.trans hhdr⟩, kspos.trans hspos, kpres.trans hpres,
    kcap.trans hcap⟩

theorem Appends.nil (h : s.cnt.val ≤ 7) : Appends [] s s :=
  ⟨(List.append_nil _).symm, (Nat.mod_eq_of_lt (Nat.lt_succ_of_le h)).symm,
    by rw [List.length_nil, Nat.add_zero, Nat.div_eq_of_lt (by omega), Nat.add_zero], (WriteFrame.refl s).keeps⟩

theorem Appends.trans (h : Appends l s t) (k : Appends m t u) : Appends (l ++ m) s u := by
  obtain ⟨hbits, hcnt, hlen, hkeeps⟩ := h
  obtain ⟨kbits, kcnt, klen, kkeeps⟩ := k
  refine ⟨by rw [kbits, hbits, List.append_assoc], ?_, ?_, hkeeps.trans kkeeps⟩
  · rw [kcnt, hcnt, List.length_append]
    omega
  · rw [klen, hlen, hcnt, List.length_append]
    omega

/-- Bits appended leave the bytes that were in the sink before at its front. -/
theorem Appends.data_prefix (h : Appends l s t) : s.snk.data <+: t.snk.data := by
  obtain ⟨hbits, -, hlen, -⟩ := h
  have hs : streamBits s.snk.data <+: t.written := by
    rw [hbits, State.written, List.append_assoc]
    exact List.prefix_append _ _
  have ht : streamBits t.snk.data <+: t.written := List.prefix_append _ _
  refine prefix_of_streamBits_prefix (List.prefix_of_prefix_length_le hs ht ?_)
  rw [length_streamBits, length_streamBits]
  omega

/-- A push that fails among the first bits has failed among more (R113). -/
theorem LosesAByte.append (h : LosesAByte l s t) (m : List Bool) : LosesAByte (l ++ m) s t := by
  obtain ⟨hbuf, hcnt, hdata, hbits, hfails, hkeeps⟩ := h
  refine ⟨hbuf, hcnt, hdata, hbits.trans ?_, hfails, hkeeps⟩
  rw [← List.append_assoc]
  exact List.prefix_append _ _

/-- Bits appended, then a push that fails. -/
theorem Appends.losesAByte (h : Appends l s t) (k : LosesAByte m t u) : LosesAByte (l ++ m) s u := by
  have hdata := h.data_prefix
  obtain ⟨hbits, -, -, hkeeps⟩ := h
  obtain ⟨kbuf, kcnt, kdata, kbits, kfails, kkeeps⟩ := k
  refine ⟨kbuf, kcnt, hdata.trans kdata, ?_, kfails, hkeeps.trans kkeeps⟩
  rwa [hbits, List.append_assoc] at kbits

/-! ## One bit -/

/-- With fewer than seven bits waiting, the bit waits with them (R113). -/
theorem writeBit_of_lt (hd : s.dir = .write) (hc : s.cnt.val < 7) (b : Bool) :
    writeBit b s = .ok () (s.withBuf (setBit s.buf (7 - s.cnt.val) b) ⟨s.cnt.val + 1, by omega⟩) := by
  rcases writeBit_cases b s hc.le with ⟨hnd, -⟩ | ⟨-, _, -, h⟩ | ⟨-, h7, -⟩
  · exact absurd hd hnd
  · exact h
  · omega

/-- The eighth bit empties the buffer and pushes its byte (R113). -/
theorem writeBit_of_seven (hd : s.dir = .write) (hc : s.cnt.val = 7) (b : Bool) :
    writeBit b s = snkPush (setBit s.buf 0 b) (s.withBuf 0#8 ⟨0, by decide⟩) := by
  rcases writeBit_cases b s hc.le with ⟨hnd, -⟩ | ⟨-, _, hlt, -⟩ | ⟨-, -, h⟩
  · exact absurd hd hnd
  · omega
  · exact h

theorem writeBit_of_pushFails (hd : s.dir = .write) (hc : s.cnt.val = 7) (hp : pushFails s = true) (b : Bool) :
    writeBit b s = .raise .ioError (s.withBuf 0#8 ⟨0, by decide⟩) := by
  have hp' : pushFails (s.withBuf 0#8 ⟨0, by decide⟩) = true := hp
  rw [writeBit_of_seven hd hc, snkPush_of_pushFails hp']

theorem writeBit_of_push (hd : s.dir = .write) (hc : s.cnt.val = 7) (hp : pushFails s = false) (b : Bool) :
    writeBit b s =
      .ok () ((s.withBuf 0#8 ⟨0, by decide⟩).withSnkData (s.snk.data ++ [setBit s.buf 0 b])) := by
  have hp' : pushFails (s.withBuf 0#8 ⟨0, by decide⟩) = false := hp
  rw [writeBit_of_seven hd hc, snkPush_of_not_pushFails hp']
  rfl

theorem appends_buffered (hc : s.cnt.val < 7) (b : Bool) :
    Appends [b] s (s.withBuf (setBit s.buf (7 - s.cnt.val) b) ⟨s.cnt.val + 1, by omega⟩) := by
  refine ⟨?_, (Nat.mod_eq_of_lt (Nat.succ_lt_succ hc)).symm, ?_, WriteFrame.keeps rfl⟩
  · simp only [State.written, State.withBuf_snk, State.withBuf_buf, State.withBuf_cnt, List.append_assoc,
      take_byteBits_setBit s.buf (k := s.cnt.val) (by omega)]
  · rw [List.length_singleton, Nat.div_eq_of_lt (by omega)]
    rfl

theorem appends_pushed (hc : s.cnt.val = 7) (b : Bool) :
    Appends [b] s ((s.withBuf 0#8 ⟨0, by decide⟩).withSnkData (s.snk.data ++ [setBit s.buf 0 b])) := by
  have hbyte : byteBits (setBit s.buf 0 b) = (byteBits s.buf).take 7 ++ [b] :=
    take_byteBits_setBit s.buf (k := 7) (by decide) b
  refine ⟨?_, by simp [hc], by simp [hc], WriteFrame.keeps rfl⟩
  simp [State.written, streamBits_append, hbyte, hc]

theorem losesAByte_emptied (hp : pushFails s = true) (l : List Bool) :
    LosesAByte l s (s.withBuf 0#8 ⟨0, by decide⟩) := by
  refine ⟨rfl, rfl, List.prefix_refl _, ?_, hp, WriteFrame.keeps rfl⟩
  rw [State.written, List.append_assoc]
  exact List.prefix_append _ _

/-- One bit is appended, with room for as many bytes as before but the one it pushes, if it pushes one; or it is the eighth
and the sink takes no byte. -/
theorem writeBit_ends (hd : s.dir = .write) (hc : s.cnt.val ≤ 7) (b : Bool) :
    (∃ t, writeBit b s = .ok () t ∧ Appends [b] s t ∧ ∀ n, hasRoom (n + (s.cnt.val + 1) / 8) s = hasRoom n t) ∨
    (s.cnt.val = 7 ∧ pushFails s = true ∧ writeBit b s = .raise .ioError (s.withBuf 0#8 ⟨0, by decide⟩)) := by
  rcases Nat.lt_or_eq_of_le hc with hlt | h7
  · refine .inl ⟨_, writeBit_of_lt hd hlt b, appends_buffered hlt b, fun n => ?_⟩
    rw [Nat.div_eq_of_lt (by omega)]
    rfl
  · cases hp : pushFails s with
    | true => exact .inr ⟨h7, rfl, writeBit_of_pushFails hd h7 hp b⟩
    | false =>
      refine .inl ⟨_, writeBit_of_push hd h7 hp b, appends_pushed h7 b, fun n => ?_⟩
      have hsucc : hasRoom (n + 1) s = (!pushFails s && hasRoom n _) := hasRoom_succ (v := setBit s.buf 0 b)
        (t := (s.withBuf 0#8 ⟨0, by decide⟩).withSnkData (s.snk.data ++ [setBit s.buf 0 b])) rfl n
      rw [h7, hsucc, hp]
      rfl

/-! ## Any number of bits -/

/-- Bits written one after another are all appended when the sink has room for the bytes they fill, and otherwise end in
`IoError` at the first byte it does not take (R66, R113, R114). -/
theorem writeBits_ends (l : List Bool) (hd : s.dir = .write) (hc : s.cnt.val ≤ 7) :
    (hasRoom ((s.cnt.val + l.length) / 8) s = true ∧ ∃ t, writeBits l s = .ok () t ∧ Appends l s t) ∨
    (hasRoom ((s.cnt.val + l.length) / 8) s = false ∧ ∃ t, writeBits l s = .raise .ioError t ∧ LosesAByte l s t) := by
  induction l generalizing s with
  | nil =>
    refine .inl ⟨?_, s, rfl, .nil hc⟩
    rw [List.length_nil, Nat.add_zero, Nat.div_eq_of_lt (by omega)]
    rfl
  | cons b l ih =>
    rcases writeBit_ends hd hc b with ⟨t, hr, happ, hroom⟩ | ⟨h7, hp, hr⟩
    · have hcnt : t.cnt.val = (s.cnt.val + 1) % 8 := happ.cnt_eq
      have hbytes : (s.cnt.val + (b :: l).length) / 8 = (t.cnt.val + l.length) / 8 + (s.cnt.val + 1) / 8 := by
        rw [hcnt, List.length_cons]
        omega
      have hcons : writeBits (b :: l) s = writeBits l t := by rw [writeBits, hr]; rfl
      rw [hbytes, hroom, hcons]
      refine (ih (happ.dir_eq.trans hd) (by omega)).imp ?_ ?_
      · rintro ⟨hfits, u, hu, k⟩
        exact ⟨hfits, u, hu, happ.trans k⟩
      · rintro ⟨hfull, u, hu, k⟩
        exact ⟨hfull, u, hu, happ.losesAByte k⟩
    · refine .inr ⟨?_, _, ?_, losesAByte_emptied hp _⟩
      · obtain ⟨n, hn⟩ : ∃ n, (s.cnt.val + (b :: l).length) / 8 = n + 1 :=
          Nat.exists_eq_succ_of_ne_zero (by rw [h7, List.length_cons]; omega)
        rw [hn, hasRoom_succ (v := 0#8) (t := s.withSnkData (s.snk.data ++ [0#8])) rfl, hp]
        rfl
      · rw [writeBits, hr]
        rfl

/-- Onto a sink that takes no byte nothing is pushed. -/
theorem writeBits_snk_of_pushFails (l : List Bool) (hd : s.dir = .write) (hc : s.cnt.val ≤ 7) (hp : pushFails s = true) :
    (writeBits l s).All fun t => t.snk = s.snk := by
  induction l generalizing s with
  | nil => exact rfl
  | cons b l ih =>
    rcases Nat.lt_or_eq_of_le hc with hlt | h7
    · rw [writeBits, writeBit_of_lt hd hlt b]
      exact ih (s := s.withBuf _ _) hd hlt hp
    · rw [writeBits, writeBit_of_pushFails hd h7 hp]
      exact rfl

/-! ## The bits below the buffered ones are 0 -/

theorem writeBit_channelOk (b : Bool) (hd : s.dir = .write) (h : ChannelOk s) : (writeBit b s).All ChannelOk := by
  obtain ⟨hc, hlow⟩ := h.of_write hd
  rcases Nat.lt_or_eq_of_le hc with hlt | h7
  · rw [writeBit_of_lt hd hlt]
    refine ⟨fun h => absurd (hd.symm.trans h) (by decide), fun _ => ⟨hlt, fun i hi => ?_⟩,
      fun h => absurd (hd.symm.trans h) (by decide)⟩
    simp only [State.withBuf_cnt] at hi
    rw [State.withBuf_buf, getLsbD_setBit s.buf (by omega), if_neg (by omega)]
    exact hlow i (by omega)
  · rw [writeBit_of_seven hd h7]
    have hempty : ∀ t, t.buf = 0#8 → t.cnt.val = 0 → ChannelOk t := fun t hb hc =>
      ⟨fun _ => ⟨hb, hc⟩, fun _ => ⟨by omega, fun i _ => hb ▸ BitVec.getLsbD_zero⟩, fun _ => by omega⟩
    rcases snkPush_cases (setBit s.buf 0 b) (s.withBuf 0#8 ⟨0, by decide⟩) with ⟨hr, -⟩ | ⟨hr, -⟩ <;> rw [hr]
    · exact hempty _ rfl rfl
    · exact hempty _ rfl rfl

/-- Writing keeps R27. -/
theorem writeBits_channelOk (l : List Bool) (hd : s.dir = .write) (h : ChannelOk s) : (writeBits l s).All ChannelOk := by
  induction l generalizing s with
  | nil => exact h
  | cons b l ih =>
    refine (writeBit_channelOk b hd h).bind (fun _ k => k) fun _ t hr k => ih ?_ k
    have hends := writeBit_endsIn b hd
    rw [hr] at hends
    exact hends

end

end Sys2Proof.Machine
end

section
/-! PROOF. `WRBIT` and `WRBYTE` (40_bitchannel.md R113, R114, R120, R121). -/

namespace Sys2Proof.Machine

/-- Settles O22: the bit waits, or is the eighth, whose byte is pushed or lost. -/
theorem wrbitAppendsOneBit : Obligations.WrbitAppendsOneBit := by
  unfold Obligations.WrbitAppendsOneBit
  refine fun s b => ⟨fun hd => ?_, fun hd hc => ?_, fun hd hc hp => ?_, fun hd hc hp => ?_⟩
  · exact ⟨_, exec_of_wrong_dir rfl hd, endFail_onlyFails _ s⟩
  · have hr := writeBit_of_lt hd hc b
    exact ⟨_, finishUnit_of_eq_ok hr, ((writeBit_bodyFrame b s).of_eq_ok hr).endsOk 0,
      fun i _ => getLsbD_setBit s.buf (by omega) b i, rfl, appends_buffered hc b⟩
  · have hr := writeBit_of_push hd hc hp b
    exact ⟨_, setBit s.buf 0 b, finishUnit_of_eq_ok hr, ((writeBit_bodyFrame b s).of_eq_ok hr).endsOk 0,
      fun i _ => getLsbD_setBit s.buf (by decide) b i, rfl, rfl, appends_pushed hc b⟩
  · have hr := writeBit_of_pushFails hd hc hp b
    exact ⟨_, finishUnit_of_eq_raise hr, ((writeBit_bodyFrame b s).of_eq_raise hr).endsFailed _, rfl,
      losesAByte_emptied hp [b]⟩

section
variable {s t : State} {v : Byte}

/-- Eight bits on top of those waiting: one byte is pushed, the waiting bits and the first of `v`, and as many bits wait as
before, the last of `v` (R114). -/
theorem Appends.byte_pushed (hc : s.cnt.val ≤ 7) (h : Appends (byteBits v) s t) :
    ∃ x, t.snk.data = s.snk.data ++ [x] ∧ t.cnt = s.cnt ∧
      byteBits x ++ (byteBits t.buf).take s.cnt.val = (byteBits s.buf).take s.cnt.val ++ byteBits v := by
  obtain ⟨r, hr⟩ := h.data_prefix
  obtain ⟨hbits, hcnt, hlen, -⟩ := h
  rw [length_byteBits] at hcnt hlen
  have hrlen : r.length = 1 := by
    rw [← hr, List.length_append] at hlen
    omega
  obtain ⟨x, rfl⟩ := List.length_eq_one_iff.mp hrlen
  have hcnt' : t.cnt = s.cnt := Fin.ext (by omega)
  refine ⟨x, hr.symm, hcnt', ?_⟩
  rw [State.written, State.written, ← hr, hcnt', streamBits_append, List.append_assoc, List.append_assoc,
    List.append_cancel_left_eq, streamBits_cons, streamBits_nil, List.append_nil] at hbits
  exact hbits

/-- In the first `k` bits of a byte and the bits of another, the first `k` places are the first byte's. -/
theorem getElem?_take_append_of_lt (b v : Byte) {k j : Nat} (hk : k ≤ 7) (hj : j < k) :
    ((byteBits b).take k ++ byteBits v)[j]? = (byteBits b)[j]? := by
  rw [List.getElem?_append_left (by rw [List.length_take, length_byteBits]; omega), List.getElem?_take_of_lt hj]

/-- The places from `k` on are the second byte's. -/
theorem getElem?_take_append_add (b v : Byte) {k : Nat} (hk : k ≤ 7) (j : Nat) :
    ((byteBits b).take k ++ byteBits v)[k + j]? = (byteBits v)[j]? := by
  have hlen : ((byteBits b).take k).length = k := by rw [List.length_take, length_byteBits]; omega
  rw [List.getElem?_append_right (by omega), hlen, Nat.add_sub_cancel_left]

/-- The byte pushed is the buffer, whose bits below the waiting ones are 0, over the high bits of `v`. -/
theorem pushed_eq {x w b : Byte} {k : Nat} (hk : k ≤ 7) (hlow : ∀ i, i ≤ 7 - k → b.getLsbD i = false)
    (h : byteBits x ++ (byteBits w).take k = (byteBits b).take k ++ byteBits v) : x = b ||| (v >>> k) := by
  refine BitVec.eq_of_getLsbD_eq fun i hi => Option.some.inj ?_
  have hx : ((byteBits b).take k ++ byteBits v)[7 - i]? = some (x.getLsbD i) := by
    rw [← h, List.getElem?_append_left (by rw [length_byteBits]; omega), getElem?_byteBits_sub x hi]
  rw [← hx, BitVec.getLsbD_or, BitVec.getLsbD_ushiftRight]
  rcases Nat.lt_or_ge (7 - i) k with hik | hik
  · rw [getElem?_take_append_of_lt b v hk hik, getElem?_byteBits_sub b hi, BitVec.getLsbD_of_ge v (k + i) (by omega),
      Bool.or_false]
  · have hplace : 7 - i = k + (7 - (k + i)) := by omega
    rw [hplace, getElem?_take_append_add b v hk, getElem?_byteBits_sub v (by omega), hlow i (by omega), Bool.false_or]

/-- The bits left waiting are the low bits of `v`, left-aligned over zeros. -/
theorem left_waiting_eq {x w b : Byte} {k : Nat} (hk : k ≤ 7) (hlow : ∀ i, i ≤ 7 - k → w.getLsbD i = false)
    (h : byteBits x ++ (byteBits w).take k = (byteBits b).take k ++ byteBits v) : w = v <<< (8 - k) := by
  refine BitVec.eq_of_getLsbD_eq fun i hi => ?_
  rw [BitVec.getLsbD_shiftLeft, decide_eq_true hi, Bool.true_and]
  rcases Nat.lt_or_ge i (8 - k) with hik | hik
  · rw [hlow i (by omega), decide_eq_true hik]
    rfl
  · have hw : ((byteBits b).take k ++ byteBits v)[8 + (7 - i)]? = some (w.getLsbD i) := by
      rw [← h, List.getElem?_append_right (by rw [length_byteBits]; omega), length_byteBits, Nat.add_sub_cancel_left,
        List.getElem?_take_of_lt (by omega), getElem?_byteBits_sub w hi]
    have hplace : 8 + (7 - i) = k + (7 - (i - (8 - k))) := by omega
    rw [hplace, getElem?_take_append_add b v hk, getElem?_byteBits_sub v (by omega)] at hw
    rw [decide_eq_false (by omega), ← Option.some.inj hw]
    rfl

/-- `WriteByte(v)` fills exactly one byte: it completes when the next push does not fail (R114). -/
theorem writeByte_of_not_pushFails (hd : s.dir = .write) (hc : s.cnt.val ≤ 7) (hp : pushFails s = false) (v : Byte) :
    ∃ t, writeByte v s = .ok () t ∧ Appends (byteBits v) s t := by
  have hone : (s.cnt.val + (byteBits v).length) / 8 = 1 := by rw [length_byteBits]; omega
  rcases writeBits_ends (byteBits v) hd hc with ⟨-, h⟩ | ⟨hfull, -⟩
  · exact h
  · rw [hone, hasRoom_one, hp] at hfull
    cases hfull

theorem writeByte_of_pushFails (hd : s.dir = .write) (hc : s.cnt.val ≤ 7) (hp : pushFails s = true) (v : Byte) :
    ∃ t, writeByte v s = .raise .ioError t ∧ LosesAByte (byteBits v) s t := by
  have hone : (s.cnt.val + (byteBits v).length) / 8 = 1 := by rw [length_byteBits]; omega
  rcases writeBits_ends (byteBits v) hd hc with ⟨hfits, -⟩ | ⟨-, h⟩
  · rw [hone, hasRoom_one, hp] at hfits
    cases hfits
  · exact h

end

/-- Settles O23: the bits appended fix the byte pushed and the bits left, since the buffer is 0 below its bits before and
after (R27). -/
theorem wrbyteAppendsEightBits : Obligations.WrbyteAppendsEightBits := by
  unfold Obligations.WrbyteAppendsEightBits
  refine fun s v => ⟨fun hd => ?_, fun hd hok hp => ?_, fun hd hok hp => ?_⟩
  · exact ⟨_, exec_of_wrong_dir rfl hd, endFail_onlyFails _ s⟩
  · obtain ⟨hc, hlow⟩ := hok.of_write hd
    obtain ⟨t, hr, happ⟩ := writeByte_of_not_pushFails hd hc hp v
    obtain ⟨x, hdata, hcnt, hbits⟩ := happ.byte_pushed hc
    have hok' : ChannelOk t := (writeBits_channelOk _ hd hok).of_eq_ok hr
    obtain ⟨-, hlow'⟩ := hok'.of_write (happ.dir_eq.trans hd)
    rw [hcnt] at hlow'
    rw [pushed_eq hc hlow hbits] at hdata
    exact ⟨_, finishUnit_of_eq_ok hr, ((writeBits_bodyFrame _ s).of_eq_ok hr).endsOk 0, hdata,
      left_waiting_eq hc hlow' hbits, hcnt, happ⟩
  · obtain ⟨hc, -⟩ := hok.of_write hd
    obtain ⟨t, hr, hloses⟩ := writeByte_of_pushFails hd hc hp v
    have hsnk : t.snk = s.snk := (writeBits_snk_of_pushFails _ hd hc hp).of_eq_raise hr
    exact ⟨_, finishUnit_of_eq_raise hr, ((writeBits_bodyFrame _ s).of_eq_raise hr).endsFailed _, hsnk, hloses⟩

end Sys2Proof.Machine
end

section
/-! PROOF. `FREQ` (41_frequency.md R130, R131): its loop counts the source byte by byte, up to the end or the error
position, so the table it leaves is a function of how often each byte occurs. -/

namespace Sys2Proof.Machine

/-! ## The table of a byte sequence -/

/-- The frequency table of a byte sequence: every entry written, with the number of times its byte occurs (R130). -/
def countTable (l : List Byte) : Vector (Option Nat) 256 := Vector.ofFn fun i => some (l.count (BitVec.ofNat 8 i.val))

theorem getElem_countTable (l : List Byte) {i : Nat} (hi : i < 256) :
    (countTable l)[i] = some (l.count (BitVec.ofNat 8 i)) := Vector.getElem_ofFn hi

theorem getElem_countTable_toNat (l : List Byte) (b : Byte) : (countTable l)[b.toNat]'b.isLt = some (l.count b) := by
  rw [getElem_countTable, BitVec.ofNat_toNat, BitVec.setWidth_eq]

theorem getElem?_countTable_toNat (l : List Byte) (b : Byte) : (countTable l)[b.toNat]? = some (some (l.count b)) :=
  Vector.getElem?_eq_some_iff.mpr ⟨b.isLt, getElem_countTable_toNat l b⟩

/-- The table `FREQ` starts from is that of no bytes (R131). -/
theorem countTable_nil : countTable [] = Vector.replicate 256 (some 0) := by
  ext1 i hi
  rw [getElem_countTable, List.count_nil, Vector.getElem_replicate]

/-- One byte more is its entry raised by one (R131). -/
theorem countTable_append_singleton (l : List Byte) (b : Byte) :
    countTable (l ++ [b]) = (countTable l).set b.toNat (some (l.count b + 1)) b.isLt := by
  ext1 i hi
  by_cases hb : b.toNat = i
  · subst hb
    rw [getElem_countTable_toNat, Vector.getElem_set_self, List.count_append, List.count_singleton_self]
  · have hne : b ≠ BitVec.ofNat 8 i := by
      rintro rfl
      exact hb (Nat.mod_eq_of_lt hi)
    rw [Vector.getElem_set_ne _ _ hb, getElem_countTable, getElem_countTable, List.count_append,
      List.count_eq_zero_of_not_mem (l := [b]) (by simpa using hne.symm), Nat.add_zero]

theorem countTable_eq_of_perm {l m : List Byte} (h : l.Perm m) : countTable l = countTable m := by
  simp only [countTable, h.count_eq]

/-! ## The loop -/

/-- The state with the first `k` bytes of the source pulled and counted, and no others. -/
def State.counted (s : State) (k : Nat) : State := (s.withFt (countTable (s.src.data.take k))).withSpos k

theorem counted_bodyFrame (s : State) (k : Nat) : BodyFrame s (s.counted k) :=
  ((BodyFrame.refl s).withFt _).withSpos k

section
variable {s : State} {k : Nat}

theorem writeFt_withFt_withSpos (f : Vector (Option Nat) 256) (b : Byte) (m n c : Nat) :
    writeFt b c (((s.withFt f).withSpos m).withSpos n) = (s.withFt (f.set b.toNat (some c) b.isLt)).withSpos n := rfl

/-- Counting the byte that stands at position `k`. -/
theorem writeFt_counted {b : Byte} (hb : s.src.data[k]? = some b) :
    writeFt b ((s.src.data.take k).count b + 1) ((s.counted k).withSpos (k + 1)) = s.counted (k + 1) := by
  rw [State.counted, State.counted, writeFt_withFt_withSpos, List.take_add_one, hb, Option.toList_some,
    countTable_append_singleton]

theorem readFt_counted (b : Byte) (n : Nat) :
    readFt b ((s.counted k).withSpos n) = .ok ((s.src.data.take k).count b) ((s.counted k).withSpos n) := by
  have hentry : ((s.counted k).withSpos n).ft[b.toNat]'b.isLt = some ((s.src.data.take k).count b) :=
    getElem_countTable_toNat _ b
  rw [readFt, hentry]

theorem pullFails_eq_false (hp : s.src.present = true) (he : s.src.errAt ≠ some s.spos) : pullFails s = false := by
  simp [pullFails, hp, he]

theorem freqLoop_of_pullFails (h : pullFails s = true) (n : Nat) : freqLoop (n + 1) s = .raise .ioError s := by
  rw [freqLoop, srcPull_of_pullFails h, Res.bind_raise]

theorem freqLoop_at_end (hp : pullFails s = false) (hs : s.src.data.length ≤ s.spos) (n : Nat) :
    freqLoop (n + 1) s = .ok () s := by
  rcases srcPull_of_not_pullFails hp with ⟨-, hr⟩ | ⟨b, hb, -⟩
  · rw [freqLoop, hr, Res.bind_ok]
  · rw [List.getElem?_eq_none hs] at hb
    cases hb

/-- A turn that pulls a byte counts it and goes on (R131). -/
theorem freqLoop_of_pull {b : Byte} {t : State} (h : srcPull s = .ok (some b) t) (n : Nat) :
    freqLoop (n + 1) s = (readFt b t).bind fun c u => freqLoop n (writeFt b (c + 1) u) := by
  rw [freqLoop, h]
  rfl

/-- One turn pulls the byte at position `k` and counts it. -/
theorem freqLoop_counted_of_lt (hp : pullFails (s.counted k) = false) (hk : k < s.src.data.length) (n : Nat) :
    freqLoop (n + 1) (s.counted k) = freqLoop n (s.counted (k + 1)) := by
  rcases srcPull_of_not_pullFails hp with ⟨hle, -⟩ | ⟨b, hb, hr⟩
  · exact absurd hk (Nat.not_lt.mpr hle)
  · have hbyte : s.src.data[k]? = some b := hb
    have hpull : srcPull (s.counted k) = .ok (some b) ((s.counted k).withSpos (k + 1)) := hr
    rw [freqLoop_of_pull hpull, readFt_counted, Res.bind_ok, writeFt_counted hbyte]

/-- With no error position before `k`, `k` turns count the first `k` bytes (R131). -/
theorem freqLoop_counts (hp : s.src.present = true) (hk : k ≤ s.src.data.length)
    (he : ∀ e, s.src.errAt = some e → k ≤ e) (n : Nat) : freqLoop (n + k) (s.counted 0) = freqLoop n (s.counted k) := by
  induction k generalizing n with
  | zero => rfl
  | succ k ih =>
    have hpull : pullFails (s.counted k) = false :=
      pullFails_eq_false hp fun h => absurd (he k h) (Nat.not_succ_le_self k)
    calc freqLoop (n + (k + 1)) (s.counted 0)
        = freqLoop (n + 1 + k) (s.counted 0) := by rw [Nat.add_assoc, Nat.add_comm 1 k]
      _ = freqLoop (n + 1) (s.counted k) := ih (Nat.le_of_succ_le hk) (fun e h => Nat.le_of_succ_le (he e h)) _
      _ = freqLoop n (s.counted (k + 1)) := freqLoop_counted_of_lt hpull hk n

/-! ## The body -/

/-- What `FREQ` clears before it looks at the source: the three flags (R131). -/
def State.flagsCleared (s : State) : State := s.withFlags false false false

theorem flagsCleared_bodyFrame (s : State) : BodyFrame s s.flagsCleared := (BodyFrame.refl s).withFlags _ _ _

theorem freqBody_of_no_source (hd : s.dir ≠ .read) (hp : s.src.present = false) :
    freqBody s = .raise .ioError s.flagsCleared := by
  simp [freqBody, srcRewind, State.flagsCleared, hd, hp]

/-- `FREQ` gets to every position that no error position precedes, with the bytes before it counted (R131). -/
theorem freqBody_counts (hd : s.dir ≠ .read) (hp : s.src.present = true) (hk : k ≤ s.src.data.length)
    (he : ∀ e, s.src.errAt = some e → k ≤ e) :
    freqBody s = (freqLoop (s.src.data.length - k + 1) (s.flagsCleared.counted k)).bind fun _ t =>
      .ok () (t.withFlags true t.treeV t.ctV) := by
  have hbody : freqBody s = (freqLoop (s.src.data.length + 1) (s.flagsCleared.counted 0)).bind fun _ t =>
      .ok () (t.withFlags true t.treeV t.ctV) := by
    rw [freqBody, if_neg hd, srcRewind, if_neg (by simp [hp]), Res.bind_ok, ← countTable_nil]
    rfl
  have hturns : s.src.data.length + 1 = s.src.data.length - k + 1 + k := by omega
  rw [hbody, hturns, freqLoop_counts (s := s.flagsCleared) hp hk he]

/-- At the error position, the end of the source included, the next pull fails (R52, R131). -/
theorem freqBody_of_error {e : Nat} (hd : s.dir ≠ .read) (hp : s.src.present = true) (he : s.src.errAt = some e)
    (hle : e ≤ s.src.data.length) : freqBody s = .raise .ioError (s.flagsCleared.counted e) := by
  have hpull : pullFails (s.flagsCleared.counted e) = true := pullFails_iff.mpr (.inr he)
  rw [freqBody_counts hd hp hle fun e' h => (Option.some.inj (he.symm.trans h)).le, freqLoop_of_pullFails hpull,
    Res.bind_raise]

/-- Without an error position up to the end, the whole source is counted (R131). -/
theorem freqBody_of_source (hd : s.dir ≠ .read) (hp : s.src.present = true)
    (he : ∀ e, s.src.errAt = some e → s.src.data.length < e) :
    freqBody s = .ok () ((s.flagsCleared.counted s.src.data.length).withFlags true false false) := by
  have hpull : pullFails (s.flagsCleared.counted s.src.data.length) = false :=
    pullFails_eq_false hp fun h => absurd (he _ h) (Nat.lt_irrefl _)
  rw [freqBody_counts hd hp le_rfl fun e h => (he e h).le, freqLoop_at_end hpull le_rfl]
  rfl

theorem ft_counted_length (s : State) : (s.counted s.src.data.length).ft = countTable s.src.data :=
  congrArg countTable List.take_length

/-- `FREQ` completes only where it has counted the whole source (R130, R131). -/
theorem freqBody_ft_of_eq_ok {t : State} (h : freqBody s = .ok () t) : t.ft = countTable s.src.data := by
  by_cases hd : s.dir = .read
  · simp [freqBody, hd] at h
  cases hp : s.src.present with
  | false => cases (freqBody_of_no_source hd hp).symm.trans h
  | true =>
    by_cases he : ∀ e, s.src.errAt = some e → s.src.data.length < e
    · cases (freqBody_of_source hd hp he).symm.trans h
      exact ft_counted_length s.flagsCleared
    · push Not at he
      obtain ⟨e, he, hle⟩ := he
      cases (freqBody_of_error hd hp he hle).symm.trans h

/-- A `FREQ` that ends `OK` leaves the table of its source. -/
theorem exec_freq_ft_of_ok {t : State} (h : exec .freq s = .next t) (hok : t.status = .ok) :
    t.ft = countTable s.src.data := by
  obtain ⟨u, hu, rfl⟩ | ⟨f, u, -, rfl⟩ := finishUnit_eq_next.mp h
  · have hft : u.ft = countTable s.src.data := freqBody_ft_of_eq_ok hu
    exact hft
  · cases hok

end

/-! ## The obligations -/

/-- Settles O26: the wrong direction, the absent source, and the count run up to the error position or to the end. -/
theorem freqCountsEveryByte : Obligations.FreqCountsEveryByte := by
  unfold Obligations.FreqCountsEveryByte
  refine fun s => ⟨fun hd => ?_, fun hd hp => ?_, fun e hd hp he hle => ?_, fun hd hp he => ?_⟩
  · exact ⟨_, exec_of_dirFailure (hd ▸ rfl), endFail_onlyFails _ s⟩
  · exact ⟨_, finishUnit_of_eq_raise (freqBody_of_no_source hd hp), (flagsCleared_bodyFrame s).endsFailed _,
      rfl, rfl, rfl, rfl, ⟨rfl, ⟨rfl, rfl, rfl⟩, rfl⟩, ⟨rfl, rfl, rfl⟩, ⟨rfl, rfl, rfl, rfl⟩, rfl⟩
  · exact ⟨_, finishUnit_of_eq_raise (freqBody_of_error hd hp he hle),
      ((flagsCleared_bodyFrame s).trans (counted_bodyFrame _ e)).endsFailed _,
      rfl, rfl, rfl, rfl, ⟨rfl, rfl, rfl⟩, rfl, ⟨rfl, rfl, rfl⟩, ⟨rfl, rfl, rfl, rfl⟩, rfl⟩
  · have hbody := freqBody_of_source hd hp he
    have hframe : BodyFrame s _ := (freqBody_bodyFrame s).of_eq_ok hbody
    refine ⟨_, finishUnit_of_eq_ok hbody, hframe.endsOk 0, rfl, rfl, rfl, fun b => ?_, rfl, ⟨rfl, rfl, rfl⟩, rfl,
      ⟨rfl, rfl, rfl⟩, ⟨rfl, rfl, rfl, rfl⟩, rfl⟩
    rw [← getElem?_countTable_toNat, ← freqBody_ft_of_eq_ok hbody]
    rfl

/-- Settles O27: each table is that of its source, and permuted sources have one table. -/
theorem freqIsOrderIndependent : Obligations.FreqIsOrderIndependent := by
  unfold Obligations.FreqIsOrderIndependent
  intro s s' t t' h h' hok hok' hperm
  rw [exec_freq_ft_of_ok h hok, exec_freq_ft_of_ok h' hok', countTable_eq_of_perm hperm]

end Sys2Proof.Machine
end

section
/-! PROOF. The queue of `BUILD` (42_treebuilder.md R142, R143): what `popmin` returns and what it leaves. -/

namespace Sys2Proof.Machine

/-- An entry that does not stand before another has the other's weight and handle or greater ones (R143). -/
theorem QEntry.before_eq_false_iff {a b : QEntry} :
    a.before b = false ↔ b.w < a.w ∨ (b.w = a.w ∧ b.h.val ≤ a.h.val) := by
  simp only [QEntry.before, Bool.or_eq_false_iff, Bool.and_eq_false_imp, decide_eq_false_iff_not, beq_iff_eq]
  omega

theorem QEntry.before_irrefl (a : QEntry) : a.before a = false := by simp [QEntry.before_eq_false_iff]

/-- What does not stand before an entry does not stand before an earlier one. -/
theorem QEntry.before_eq_false_of_before {a b c : QEntry} (h : a.before b = true) (hc : c.before b = false) :
    c.before a = false := by
  rw [← Bool.not_eq_false, QEntry.before_eq_false_iff] at h
  rw [QEntry.before_eq_false_iff] at hc ⊢
  omega

/-- What `popmin` does with a first entry: it is the only one, or it stands before the least of the others, or it is
kept. -/
theorem popMin_cons_cases (x : QEntry) (q : List QEntry) :
    (popMin q = none ∧ popMin (x :: q) = some (x, [])) ∨
    ∃ n l, popMin q = some (n, l) ∧
      ((x.before n = true ∧ popMin (x :: q) = some (x, q)) ∨
       (x.before n = false ∧ popMin (x :: q) = some (n, x :: l))) := by
  rw [popMin]
  rcases popMin q with _ | ⟨n, l⟩
  · exact .inl ⟨rfl, rfl⟩
  · cases hx : x.before n <;> simp [hx]

/-- Only the empty queue has no least entry. -/
theorem popMin_eq_none_iff {q : List QEntry} : popMin q = none ↔ q = [] := by
  cases q with
  | nil => simp [popMin]
  | cons x q =>
    obtain ⟨-, h⟩ | ⟨n, l, -, ⟨-, h⟩ | ⟨-, h⟩⟩ := popMin_cons_cases x q <;> simp [h]

/-- The entry removed and the queue it leaves are the queue there was. -/
theorem popMin_perm {q r : List QEntry} {m : QEntry} (h : popMin q = some (m, r)) : q.Perm (m :: r) := by
  induction q generalizing m r with
  | nil => cases h
  | cons x q ih =>
    obtain ⟨hq, hp⟩ | ⟨n, l, hq, ⟨-, hp⟩ | ⟨-, hp⟩⟩ := popMin_cons_cases x q <;> cases hp.symm.trans h
    · rw [popMin_eq_none_iff.mp hq]
    · exact .refl _
    · exact ((ih hq).cons x).trans (.swap _ _ _)

/-- No entry of the queue stands before the one removed (R143). -/
theorem popMin_least {q r : List QEntry} {m : QEntry} (h : popMin q = some (m, r)) : ∀ x ∈ q, x.before m = false := by
  induction q generalizing m r with
  | nil => cases h
  | cons x q ih =>
    rw [List.forall_mem_cons]
    obtain ⟨hq, hp⟩ | ⟨n, l, hq, ⟨hx, hp⟩ | ⟨hx, hp⟩⟩ := popMin_cons_cases x q <;> cases hp.symm.trans h
    · rw [popMin_eq_none_iff.mp hq]
      exact ⟨x.before_irrefl, List.forall_mem_nil _⟩
    · exact ⟨x.before_irrefl, fun y hy => QEntry.before_eq_false_of_before hx (ih hq y hy)⟩
    · exact ⟨hx, ih hq⟩

/-- Settles O28, by induction on the queue: its first entry is held against the least of the others. -/
theorem popMinRemovesTheLeast : Obligations.PopMinRemovesTheLeast := by
  unfold Obligations.PopMinRemovesTheLeast
  exact fun q => ⟨popMin_eq_none_iff, fun m r h =>
    ⟨popMin_perm h, fun x hx => QEntry.before_eq_false_iff.mp (popMin_least h x hx)⟩⟩

end Sys2Proof.Machine
end

section
/-! PROOF. `BUILD` on a table of two leaves (42_treebuilder.md R141, R144): the one merge, and the tree of the empty input
(R146). -/

namespace Sys2Proof.Machine

/-! ## The leaves of a table -/

theorem allWritten_map_some {α : Type} (l : List α) : allWritten (l.map some) = some l := by
  induction l with
  | nil => rfl
  | cons a l ih => simp [allWritten, ih]

/-- A table without a positive count has no byte present (R140). -/
theorem presentBytes_eq_nil {counts : List Nat} (h : ∀ c ∈ counts, c = 0) : presentBytes counts = [] := by
  rw [presentBytes, List.map_eq_nil_iff, List.filter_eq_nil_iff]
  rintro ⟨b, c⟩ hbc
  simp [h c (List.of_mem_zip hbc).2]

/-- With no byte present the leaves are the dummy's and the terminator's (R146). -/
theorem buildLeaves_of_absent {counts : List Nat} (h : presentBytes counts = []) :
    buildLeaves counts = [(DUMMY, 0), (TERM, 0)] := by
  rw [buildLeaves, h]

/-! ## Allocation and merges -/

/-- The state with the node `e` allocated under the handle `h` (R30). -/
def State.allocated (s : State) (h : NodeIx) (e : Node) : State := (writeNode h e s).withTree s.root h.succ

@[simp] theorem State.allocated_node (s : State) (h : NodeIx) (e : Node) :
    (s.allocated h e).node = s.node.set h.val (some e) h.isLt := rfl

section
variable {s : State}

/-- `alloc(e)` with room in the arena: the handle is `NCNT`, which goes up by one (R30). -/
theorem alloc_of_ncnt {h : NodeIx} (hn : s.ncnt = h.castSucc) (e : Node) : alloc e s = .ok h (s.allocated h e) := by
  have hval : s.ncnt.val = h.val := congrArg Fin.val hn
  simp [alloc, hval, State.allocated, Fin.succ]

/-- The next leaf is allocated and enters the queue (R141). -/
theorem allocLeaves_cons {h : NodeIx} (hn : s.ncnt = h.castSucc) (x : Sym) (w : Nat) (l : List (Sym × Nat))
    (q : List QEntry) :
    allocLeaves ((x, w) :: l) q s = allocLeaves l (⟨h, w⟩ :: q) (s.allocated h (leafNode x w)) := by
  rw [allocLeaves, alloc_of_ncnt hn, Res.bind_ok]

/-- The one node left in the queue is the root (R141). -/
theorem mergeLoop_of_one {q : List QEntry} {a : QEntry} (hq : popMin q = some (a, [])) (n : Nat) :
    mergeLoop (n + 1) q s = .ok a.h s := by
  simp [mergeLoop, hq, popMin]

/-- With two nodes or more in the queue the two least are merged, the first on the left (R141, R144). -/
theorem mergeLoop_of_two {q r l : List QEntry} {a b : QEntry} {h : NodeIx} (ha : popMin q = some (a, r))
    (hb : popMin r = some (b, l)) (hn : s.ncnt = h.castSucc) (n : Nat) :
    mergeLoop (n + 1) q s = mergeLoop n (⟨h, a.w + b.w⟩ :: l)
      (s.allocated h (innerNode (some a.h) (some b.h) (a.w + b.w))) := by
  simp [mergeLoop, ha, hb, alloc_of_ncnt hn]

/-! ## The body -/

/-- The state with the tree at `r` made valid: `ROOT` and `TREE_V` are written (R141). -/
def State.rooted (s : State) (r : NodeIx) : State := (s.withTree (some r) s.ncnt).withFlags s.ftV true s.ctV

/-- From a valid table `BUILD` clears the tree, allocates the leaves, merges, and roots the tree at the last node (R141). -/
theorem buildBody_of_counts {counts : List Nat} (hv : s.ftV = true) (hft : allWritten s.ft.toList = some counts) :
    buildBody s = (allocLeaves (buildLeaves counts) [] (clearTree s)).bind fun q t =>
      (mergeLoop maxFrames q t).bind fun r u => .ok () (u.rooted r) := by
  simp only [buildBody, hv, hft, clearTree, State.rooted, Bool.true_eq_false, if_false]

/-- The state with a tree of three nodes built in the arena, the last one the root. -/
def State.threeNodes (s : State) (e f g : Node) : State :=
  ((((clearTree s).allocated 0 e).allocated 1 f).allocated 2 g).rooted 2

/-- Two leaves are built into a tree by one merge, of the one `popmin` takes first and the other (R141, R144). -/
theorem buildBody_of_two_leaves {counts : List Nat} {x y : Sym} {v w : Nat} {a b : QEntry} (hv : s.ftV = true)
    (hft : allWritten s.ft.toList = some counts) (hl : buildLeaves counts = [(x, v), (y, w)])
    (hq : popMin [⟨1, w⟩, ⟨0, v⟩] = some (a, [b])) :
    buildBody s = .ok () (s.threeNodes (leafNode x v) (leafNode y w) (innerNode (some a.h) (some b.h) (a.w + b.w))) := by
  have hmerges : maxFrames = 255 + 1 + 1 := rfl
  rw [buildBody_of_counts hv hft, hl, allocLeaves_cons (h := 0) rfl, allocLeaves_cons (h := 1) rfl, allocLeaves,
    Res.bind_ok, hmerges, mergeLoop_of_two (h := 2) hq rfl rfl, mergeLoop_of_one rfl, Res.bind_ok, State.threeNodes]

end

/-- The tree below an Internal node whose children are leaves (R32). -/
theorem absTree_of_two_leaves {arena : Vector (Option Node) 513} {r a b : NodeIx} {x y : Sym} {u v w : Nat}
    (hr : arena[r.val] = some (innerNode (some a) (some b) u)) (ha : arena[a.val] = some (leafNode x v))
    (hb : arena[b.val] = some (leafNode y w)) (n : Nat) :
    absTree (n + 2) arena r = some (.node (.leaf x) (.leaf y), [r, a, b]) := by
  simp [absTree, hr, ha, hb, innerNode, leafNode]

section
variable (s : State) (e f g : Node)

theorem State.threeNodes_node_zero : (s.threeNodes e f g).node[0] = some e := by simp [State.threeNodes, State.rooted]

theorem State.threeNodes_node_one : (s.threeNodes e f g).node[1] = some f := by simp [State.threeNodes, State.rooted]

theorem State.threeNodes_node_two : (s.threeNodes e f g).node[2] = some g := by simp [State.threeNodes, State.rooted]

/-- A root with handle 0 on its left and handle 1 on its right, both leaves. -/
theorem State.threeNodes_tree? (x y : Sym) (u v w : Nat) :
    (s.threeNodes (leafNode x v) (leafNode y w) (innerNode (some 0) (some 1) u)).tree? =
      some (.node (.leaf x) (.leaf y), [2, 0, 1]) :=
  absTree_of_two_leaves (s.threeNodes_node_two _ _ _) (s.threeNodes_node_zero _ _ _) (s.threeNodes_node_one _ _ _) 255

end

/-- Settles O30: the leaves of the zero table are the dummy's and the terminator's, of equal weight, so the one merge takes
the dummy's first. -/
theorem buildOfTheEmptyInput : Obligations.BuildOfTheEmptyInput := by
  unfold Obligations.BuildOfTheEmptyInput
  intro s hv hft
  have hcounts : allWritten s.ft.toList = some (List.replicate 256 0) := by
    rw [hft, Vector.toList_replicate, ← List.map_replicate, allWritten_map_some]
  have hleaves : buildLeaves (List.replicate 256 0) = [(DUMMY, 0), (TERM, 0)] :=
    buildLeaves_of_absent (presentBytes_eq_nil fun c hc => List.eq_of_mem_replicate hc)
  have hpop : popMin [⟨1, 0⟩, ⟨0, 0⟩] = some (⟨0, 0⟩, [⟨1, 0⟩]) := by decide
  have hbody := buildBody_of_two_leaves hv hcounts hleaves hpop
  have hframe : BodyFrame s _ := (buildBody_bodyFrame s).of_eq_ok hbody
  have h0 := s.threeNodes_node_zero (leafNode DUMMY 0) (leafNode TERM 0) (innerNode (some 0) (some 1) 0)
  have h1 := s.threeNodes_node_one (leafNode DUMMY 0) (leafNode TERM 0) (innerNode (some 0) (some 1) 0)
  exact ⟨_, finishUnit_of_eq_ok hbody, hframe.endsOk 0, rfl, rfl, rfl,
    congrArg (Option.map (·.1)) (s.threeNodes_tree? DUMMY TERM 0 0 0),
    Vector.getElem?_eq_some_iff.mpr ⟨by decide, h0⟩, Vector.getElem?_eq_some_iff.mpr ⟨by decide, h1⟩,
    by decide, by decide⟩

end Sys2Proof.Machine
end

section
/-! PROOF. `CODES` (43_codetable.md R155, R156): the walk over a tree of the arena writes the path of every leaf into the
code table. -/

namespace Sys2Proof.Machine

/-! ## The entries a tree records -/

/-- The code table after the paths of a tree that stands at the path `c` are written into it, left before right (R156). -/
def Tree.recordPaths : Tree → List Bool → Vector (Option CodeEntry) 257 → Vector (Option CodeEntry) 257
  | .leaf x,   c, ct => ct.set x.val (some { v := true, code := c }) x.isLt
  | .node l r, c, ct => r.recordPaths (c ++ [true]) (l.recordPaths (c ++ [false]) ct)

/-- A path from an Internal node goes on in its left subtree or in its right one (R155). -/
theorem Tree.code?_node_eq_some {l r : Tree} {x : Sym} {p : List Bool} (h : (Tree.node l r).code? x = some p) :
    (∃ q, l.code? x = some q ∧ p = false :: q) ∨ (∃ q, r.code? x = some q ∧ p = true :: q) := by
  rw [Tree.code?] at h
  cases hl : l.code? x with
  | some q => exact .inl ⟨q, rfl, by simpa [hl, eq_comm] using h⟩
  | none =>
    cases hr : r.code? x with
    | some q => exact .inr ⟨q, rfl, by simpa [hl, hr, eq_comm] using h⟩
    | none => simp [hl, hr] at h

/-- The entry of a symbol on no leaf stays as it was. -/
theorem Tree.recordPaths_of_notMem {tree : Tree} {x : Sym} (hx : x ∉ tree.leaves) (c : List Bool)
    (ct : Vector (Option CodeEntry) 257) : (tree.recordPaths c ct)[x.val] = ct[x.val] := by
  induction tree generalizing c ct with
  | leaf y =>
    have hne : y.val ≠ x.val := fun h => hx (List.mem_singleton.mpr (Fin.ext h.symm))
    exact Vector.getElem_set_ne _ _ hne
  | node l r ihl ihr =>
    obtain ⟨hl, hr⟩ := not_or.mp (mt List.mem_append.mpr hx)
    exact (ihr hr _ _).trans (ihl hl _ _)

/-- With distinct leaves no later write reaches an entry again: a symbol on a leaf keeps the path to it (R155). -/
theorem Tree.recordPaths_of_code? {tree : Tree} (hnd : tree.leaves.Nodup) {x : Sym} {p : List Bool}
    (hp : tree.code? x = some p) (c : List Bool) (ct : Vector (Option CodeEntry) 257) :
    (tree.recordPaths c ct)[x.val] = some { v := true, code := c ++ p } := by
  induction tree generalizing p c ct with
  | leaf y =>
    obtain ⟨rfl, rfl⟩ : x = y ∧ p = [] := by simpa [Tree.code?, eq_comm] using hp
    simp [Tree.recordPaths]
  | node l r ihl ihr =>
    obtain ⟨hndl, hndr, hdisj⟩ := List.nodup_append.mp hnd
    obtain ⟨q, hq, rfl⟩ | ⟨q, hq, rfl⟩ := Tree.code?_node_eq_some hp
    · have hxl : x ∈ l.leaves := by
        by_contra hx
        simp [(l.code?_eq_none_iff x).mpr hx] at hq
      have hxr : x ∉ r.leaves := fun hx => hdisj x hxl x hx rfl
      rw [Tree.recordPaths, Tree.recordPaths_of_notMem hxr, ihl hndl hq, List.append_assoc, List.singleton_append]
    · rw [Tree.recordPaths, ihr hndr hq, List.append_assoc, List.singleton_append]

/-- Recorded from the root into a table without codes, the entries are those of the tree (R36, R156). -/
theorem Tree.recordPaths_root {tree : Tree} (hnd : tree.leaves.Nodup) (x : Sym) :
    (tree.recordPaths [] (Vector.replicate 257 (some { v := false, code := [] })))[x.val] = some (tree.entry x) := by
  cases hx : tree.code? x with
  | some p => simp [Tree.recordPaths_of_code? hnd hx, Tree.entry, hx]
  | none =>
    rw [Tree.recordPaths_of_notMem ((tree.code?_eq_none_iff x).mp hx), Vector.getElem_replicate, Tree.entry, hx]

/-! ## The walk and the command -/

/-- Where the arena holds a tree, the walk completes: it records the tree's paths and writes nothing but `CT` (R156). -/
theorem codesWalk_of_absTree {n : Nat} {h : NodeIx} {s : State} {tree : Tree} {hs : List NodeIx}
    (htree : absTree n s.node h = some (tree, hs)) (c : List Bool) :
    codesWalk n h c s = .ok () (s.withCt (tree.recordPaths c s.ct)) := by
  induction n generalizing h s tree hs c with
  | zero => cases htree
  | succ n ih =>
    obtain ⟨e, he, ⟨hleaf, rfl, -⟩ | ⟨hleaf, l, r, tl, hl, tr, hr, hel, her, htl, htr, rfl, -⟩⟩ := absTree_cases htree
    · simp only [codesWalk, readNode_eq he, Res.bind_ok, hleaf, if_true]
      rfl
    · simp only [codesWalk, readNode_eq he, Res.bind_ok, hleaf, Bool.false_eq_true, if_false, hel, her, follow, ih htl]
      exact ih (s := s.withCt (tl.recordPaths (c ++ [false]) s.ct)) htr _

/-- The state `CODES` completes in, but for its end: `CT` written and valid (R156). -/
def State.withCodes (s : State) (tree : Tree) : State :=
  (s.withCt (tree.recordPaths [] (Vector.replicate 257 (some { v := false, code := [] })))).withFlags s.ftV s.treeV true

/-- With a tree in the arena `CODES` completes (R156). -/
theorem codesBody_of_tree? {s : State} {tree : Tree} {hs : List NodeIx} (hv : s.treeV = true)
    (htree : s.tree? = some (tree, hs)) : codesBody s = .ok () (s.withCodes tree) := by
  cases hroot : s.root with
  | none => simp [State.tree?, hroot] at htree
  | some r =>
    simp only [State.tree?, hroot] at htree
    have hwalk := codesWalk_of_absTree (s := (s.withFlags s.ftV s.treeV false).withCt
      (Vector.replicate 257 (some { v := false, code := [] }))) htree []
    rw [codesBody, if_neg (by simp [hv]), hroot, follow, Res.bind_ok, hwalk, Res.bind_ok]
    rfl

/-- Without a tree `CODES` fails and has changed nothing (R156). -/
theorem codesBody_of_no_tree {s : State} (hv : s.treeV = false) : codesBody s = .raise .notReady s := if_pos hv

/-- Settles O33: the walk records the path of every leaf, and the leaves are distinct, so each path stays. -/
theorem codesRecordsThePaths : Obligations.CodesRecordsThePaths := by
  unfold Obligations.CodesRecordsThePaths
  refine fun s => ⟨fun hv => ?_, fun tree hs hv htree hnd => ?_⟩
  · exact ⟨_, finishUnit_of_eq_raise (codesBody_of_no_tree hv), endFail_onlyFails _ s⟩
  · have hbody := codesBody_of_tree? hv htree
    have hframe : BodyFrame s (s.withCodes tree) := (codesBody_bodyFrame s).of_eq_ok hbody
    exact ⟨_, finishUnit_of_eq_ok hbody, hframe.endsOk 0, fun x => Tree.recordPaths_root hnd x, rfl, rfl, hv,
      ⟨rfl, rfl, rfl⟩, rfl, ⟨rfl, rfl, rfl⟩, ⟨rfl, rfl, rfl, rfl⟩, rfl, rfl⟩

end Sys2Proof.Machine
end

section
/-! PROOF. `SERTREE` (44_treecodec.md R165, R166): the walk over a tree of the arena writes the bits of its header, and
nothing between or after them. -/

namespace Sys2Proof.Machine

/-! ## The header of a tree -/

theorem Tree.header_leaf (x : Sym) : (Tree.leaf x).header = (leafToken x).bits := by
  simp [Tree.header, Tree.tokens, headerBits]

theorem Tree.header_node (l r : Tree) : (Tree.node l r).header = Token.int.bits ++ (l.header ++ r.header) := by
  simp [Tree.header, Tree.tokens, headerBits]

/-- Ten bits for a Leaf, eight fewer for the terminator's (R86). -/
theorem length_leafToken_bits (x : Sym) : (leafToken x).bits.length + 8 * [x].count TERM = 10 := by
  by_cases hx : x = TERM
  · simp [leafToken, hx, Token.bits]
  · simp [leafToken, hx, Token.bits]

/-- With `n` leaves there are `n - 1` Internal nodes of one bit each (R10, R74). -/
theorem Tree.length_header (tree : Tree) : tree.header.length + 8 * tree.leaves.count TERM + 1 = 11 * tree.leaves.length := by
  induction tree with
  | leaf x =>
    have hx := length_leafToken_bits x
    rw [Tree.header_leaf, Tree.leaves, List.length_singleton]
    omega
  | node l r ihl ihr =>
    have hint : Token.int.bits.length = 1 := rfl
    rw [Tree.header_node, Tree.leaves, List.length_append, List.length_append, List.length_append, List.count_append, hint]
    omega

/-- The terminator is one leaf of a valid tree (R31), so the header has `11 n - 9` bits (R74). -/
theorem Tree.Wf.length_header {tree : Tree} (h : tree.Wf) : tree.header.length = 11 * tree.leaves.length - 9 := by
  obtain ⟨hnd, hterm⟩ := h
  have hcount : tree.leaves.count TERM = 1 := List.count_eq_one_of_mem hnd hterm
  have hlen := tree.length_header
  omega

/-! ## The walk and the command -/

/-- What follows an operation needs to agree only on the states the operation can end in. -/
theorem Res.All.bind_congr {α β : Type} {P : State → Prop} {r : Res α} {k k' : α → State → Res β} (h : r.All P)
    (hk : ∀ a s, P s → k a s = k' a s) : r.bind k = r.bind k' := by
  cases r with
  | ok a s => exact hk a s h
  | raise f s => rfl
  | stuck e => rfl

theorem WriteFrame.node_eq {s t : State} (h : WriteFrame s t) : t.node = s.node := by
  unfold WriteFrame at h
  rw [h]

theorem writeBits_append (l m : List Bool) (s : State) :
    writeBits (l ++ m) s = (writeBits l s).bind fun _ t => writeBits m t := by
  induction l generalizing s with
  | nil => rfl
  | cons b l ih =>
    rw [List.cons_append, writeBits, writeBits]
    cases writeBit b s with
    | ok a t => exact ih t
    | raise f t => rfl
    | stuck e => rfl

/-- Where the arena holds a tree, the walk writes its header: writing leaves the arena as it was, so each subtree is still
there when the walk comes to it (R166). -/
theorem serWalk_of_absTree {n : Nat} {h : NodeIx} {s : State} {tree : Tree} {hs : List NodeIx}
    (htree : absTree n s.node h = some (tree, hs)) : serWalk n h s = writeBits tree.header s := by
  induction n generalizing h s tree hs with
  | zero => cases htree
  | succ n ih =>
    obtain ⟨e, he, ⟨hleaf, rfl, -⟩ | ⟨hleaf, l, r, tl, hl, tr, hr, hel, her, htl, htr, rfl, -⟩⟩ := absTree_cases htree
    · simp only [serWalk, readNode_eq he, Res.bind_ok, hleaf, if_true, writeToken, Tree.header_leaf]
    · simp only [serWalk, readNode_eq he, Res.bind_ok, hleaf, Bool.false_eq_true, if_false, hel, her, follow, writeToken,
        Tree.header_node, writeBits_append]
      refine (writeBits_frame _ s).bind_congr fun _ t ht => ?_
      rw [← ht.node_eq] at htl htr
      rw [ih htl]
      refine (writeBits_frame _ t).bind_congr fun _ u hu => ?_
      rw [← hu.node_eq] at htr
      exact ih htr

/-- The tree of a state is the one below its root (R32). -/
theorem State.tree?_eq_some_iff {s : State} {p : Tree × List NodeIx} :
    s.tree? = some p ↔ ∃ r, s.root = some r ∧ absTree maxFrames s.node r = some p := by
  cases hroot : s.root with
  | none => simp [State.tree?, hroot]
  | some r => simp [State.tree?, hroot]

/-- With the channel open for writing and a tree in the arena `SERTREE` writes the header (R166). -/
theorem sertreeBody_of_tree? {s : State} {tree : Tree} {hs : List NodeIx} (hd : s.dir = .write) (hv : s.treeV = true)
    (htree : s.tree? = some (tree, hs)) : sertreeBody s = writeBits tree.header s := by
  obtain ⟨r, hroot, hr⟩ := State.tree?_eq_some_iff.mp htree
  rw [sertreeBody, if_neg (not_not_intro hd), if_neg (by simp [hv]), hroot, follow, Res.bind_ok, serWalk_of_absTree hr]

/-- Without a tree `SERTREE` fails and has changed nothing (R166). -/
theorem sertreeBody_of_no_tree {s : State} (hd : s.dir = .write) (hv : s.treeV = false) :
    sertreeBody s = .raise .notReady s := by
  rw [sertreeBody, if_neg (not_not_intro hd), if_pos hv]

/-- Settles O36: the walk is the writing of the header's bits, which are all appended or end at the push that fails. -/
theorem sertreeWritesTheHeader : Obligations.SertreeWritesTheHeader := by
  unfold Obligations.SertreeWritesTheHeader
  refine fun s => ⟨fun hd => ?_, fun hd hv => ?_, fun tree hs hd hc hv htree => ?_⟩
  · exact ⟨_, exec_of_wrong_dir rfl hd, endFail_onlyFails _ s⟩
  · exact ⟨_, finishUnit_of_eq_raise (sertreeBody_of_no_tree hd hv), endFail_onlyFails _ s⟩
  · have hbody := sertreeBody_of_tree? hd hv htree
    have hframe := writeBits_bodyFrame tree.header s
    refine ⟨fun hwf => ?_, fun hroom => ?_, fun hroom => ?_⟩
    · rw [hwf.length_header]
      split <;> omega
    · obtain ⟨-, t, hr, happ⟩ | ⟨hfull, -⟩ := writeBits_ends tree.header hd hc
      · exact ⟨_, finishUnit_of_eq_ok (hbody.trans hr), (hframe.of_eq_ok hr).endsOk 0, happ⟩
      · exact absurd (hroom.symm.trans hfull) (by decide)
    · obtain ⟨hfits, -⟩ | ⟨-, t, hr, hloses⟩ := writeBits_ends tree.header hd hc
      · exact absurd (hfits.symm.trans hroom) (by decide)
      · exact ⟨_, finishUnit_of_eq_raise (hbody.trans hr), (hframe.of_eq_raise hr).endsFailed _, hloses⟩

end Sys2Proof.Machine
end

section
/-! PROOF. `PUTSYM` and `PUTTERM` (45_encoder.md R185 to R187): past their tests both are the writing of one entry's bits. -/

namespace Sys2Proof.Machine

section
variable {s : State} {e : CodeEntry}

/-! ## The entry read and its bits written -/

theorem readCt_eq {x : Sym} (he : s.ct[x.val]? = some (some e)) : readCt x s = .ok e s := by
  obtain ⟨hx, hget⟩ := Vector.getElem?_eq_some_iff.mp he
  rw [readCt, hget]

/-- `putcode(x)` writes the bits of the entry of `x` (R185). -/
theorem putCode_eq_writeBits {x : Sym} (he : s.ct[x.val]? = some (some e)) : putCode x s = writeBits e.code s := by
  rw [putCode, readCt_eq he, Res.bind_ok]

/-- A command whose body writes bits to an open write channel: all are appended when the sink has room for the bytes they
fill, and otherwise it ends in `IoError` at the first push that fails (R66, R113). -/
theorem finishUnit_writeBits (l : List Bool) (hd : s.dir = .write) (hc : s.cnt.val ≤ 7) :
    (hasRoom ((s.cnt.val + l.length) / 8) s = true →
      ∃ t, finishUnit (writeBits l s) = .next t ∧ EndsOk 0 s t ∧ Appends l s t) ∧
    (hasRoom ((s.cnt.val + l.length) / 8) s = false →
      ∃ t, finishUnit (writeBits l s) = .next t ∧ EndsFailed .ioError s t ∧ LosesAByte l s t) := by
  have hframe := writeBits_bodyFrame l s
  obtain ⟨hfits, t, hr, happ⟩ | ⟨hfull, t, hr, hloses⟩ := writeBits_ends l hd hc
  · exact ⟨fun _ => ⟨_, finishUnit_of_eq_ok hr, (hframe.of_eq_ok hr).endsOk 0, happ⟩,
      fun h => absurd (hfits.symm.trans h) (by decide)⟩
  · exact ⟨fun h => absurd (h.symm.trans hfull) (by decide),
      fun _ => ⟨_, finishUnit_of_eq_raise hr, (hframe.of_eq_raise hr).endsFailed _, hloses⟩⟩

/-! ## The bodies, case by case -/

theorem putsymBody_of_no_table {v : Byte} (hd : s.dir = .write) (hv : s.ctV = false) :
    putsymBody v s = .raise .notReady s := by
  rw [putsymBody, if_neg (not_not_intro hd), if_pos hv]

/-- With a code table `PUTSYM` looks at the entry of its byte (R186). -/
theorem putsymBody_of_entry {v : Byte} (hd : s.dir = .write) (hv : s.ctV = true)
    (he : s.ct[v.toNat]? = some (some e)) :
    putsymBody v s = if e.v then writeBits e.code s else .raise .notReady s := by
  rw [putsymBody, if_neg (not_not_intro hd), if_neg (by simp [hv]), readCt_eq (x := byteSym v) he, Res.bind_ok,
    putCode_eq_writeBits (x := byteSym v) he]

theorem puttermBody_of_no_table (hd : s.dir = .write) (hv : s.ctV = false) : puttermBody s = .raise .notReady s := by
  rw [puttermBody, if_neg (not_not_intro hd), if_pos hv]

/-- With a code table `PUTTERM` writes the terminator's code (R187). -/
theorem puttermBody_of_entry (hd : s.dir = .write) (hv : s.ctV = true) (he : s.ct[256]? = some (some e)) :
    puttermBody s = writeBits e.code s := by
  rw [puttermBody, if_neg (not_not_intro hd), if_neg (by simp [hv]), putCode_eq_writeBits (x := TERM) he]

end

/-! ## The commands -/

/-- Settles O44: a failing test leaves the state alone, and past the tests the command is the writing of the code's bits. -/
theorem putsymWritesTheCode : Obligations.PutsymWritesTheCode := by
  unfold Obligations.PutsymWritesTheCode
  refine fun s v => ⟨fun hd => ?_, fun hd hv => ?_, fun e hd hv he hev => ?_, fun e hd hc hv he hev => ?_⟩
  · exact ⟨_, exec_of_wrong_dir rfl hd, endFail_onlyFails _ s⟩
  · exact ⟨_, finishUnit_of_eq_raise (putsymBody_of_no_table hd hv), endFail_onlyFails _ s⟩
  · have hbody : putsymBody v s = .raise .notReady s := by
      rw [putsymBody_of_entry hd hv he, hev, if_neg Bool.false_ne_true]
    exact ⟨_, finishUnit_of_eq_raise hbody, endFail_onlyFails _ s⟩
  · have hexec : exec (.putsym v) s = finishUnit (writeBits e.code s) :=
      congrArg finishUnit ((putsymBody_of_entry hd hv he).trans (if_pos hev))
    rw [hexec]
    exact finishUnit_writeBits e.code hd hc

/-- Settles O45: past the two tests the command is the writing of the bits of the terminator's entry. -/
theorem puttermWritesTheTerminatorsCode : Obligations.PuttermWritesTheTerminatorsCode := by
  unfold Obligations.PuttermWritesTheTerminatorsCode
  refine fun s => ⟨fun hd => ?_, fun hd hv => ?_, fun e hd hc hv he => ?_⟩
  · exact ⟨_, exec_of_wrong_dir rfl hd, endFail_onlyFails _ s⟩
  · exact ⟨_, finishUnit_of_eq_raise (puttermBody_of_no_table hd hv), endFail_onlyFails _ s⟩
  · have hexec : exec .putterm s = finishUnit (writeBits e.code s) := congrArg finishUnit (puttermBody_of_entry hd hv he)
    rw [hexec]
    exact finishUnit_writeBits e.code hd hc

end Sys2Proof.Machine
end

section
/-! PROOF. Bits read through the channel (10_state.md R26; 20_memory.md R52; 40_bitchannel.md R111): which ones can be read
before a pull gives no byte, and what reading any number of them comes to. -/

namespace Sys2Proof.Machine

section
variable {s t u : State} {l m : List Bool}

/-! ## The bytes that can be pulled -/

/-- The bytes a source gives from `SPOS` on, up to its end or the position where a pull fails (R52). -/
def State.pullable (s : State) : List Byte :=
  if s.src.present then (s.src.data.take (readLimit s)).drop s.spos else []

theorem State.readable_eq (s : State) :
    s.readable = (byteBits s.buf).drop (8 - s.cnt.val) ++ streamBits s.pullable := by
  rw [State.readable, State.pullable]
  split <;> rfl

theorem present_of_not_pullFails (h : pullFails s = false) : s.src.present = true := by
  by_contra hp
  simp [pullFails, hp] at h

theorem errAt_ne_spos {e : Nat} (h : pullFails s = false) (he : s.src.errAt = some e) : e ≠ s.spos := by
  rintro rfl
  simp [pullFails, he] at h

theorem pullable_of_pullFails (h : pullFails s = true) : s.pullable = [] := by
  rcases pullFails_iff.mp h with hp | he
  · simp [State.pullable, hp]
  · simp [State.pullable, readLimit, he]

theorem pullable_at_end (h : s.src.data.length ≤ s.spos) : s.pullable = [] := by
  have hlen : (s.src.data.take (readLimit s)).length ≤ s.spos := (List.length_take_le' _ _).trans h
  simp [State.pullable, List.drop_eq_nil_of_le hlen]

/-- A pull that gives a byte does not move the position where a later one stops. -/
theorem readLimit_withSpos_succ (h : pullFails s = false) : readLimit (s.withSpos (s.spos + 1)) = readLimit s := by
  simp only [readLimit, State.withSpos_src, State.withSpos_spos]
  cases he : s.src.errAt with
  | none => rfl
  | some e =>
    have hne : e ≠ s.spos := errAt_ne_spos h he
    have hlt : e < s.spos + 1 ↔ e < s.spos := by omega
    simp only [hlt]

/-- Nor does it change whether that one fails. -/
theorem readsIntoError_withSpos_succ (h : pullFails s = false) :
    readsIntoError (s.withSpos (s.spos + 1)) = readsIntoError s := by
  simp only [readsIntoError, State.withSpos_src, State.withSpos_spos]
  cases he : s.src.errAt with
  | none => rfl
  | some e =>
    have hne : e ≠ s.spos := errAt_ne_spos h he
    have hle : s.spos + 1 ≤ e ↔ s.spos ≤ e := by omega
    simp only [hle]

theorem lt_readLimit (h : pullFails s = false) (hs : s.spos < s.src.data.length) : s.spos < readLimit s := by
  rw [readLimit]
  cases he : s.src.errAt with
  | none => exact hs
  | some e =>
    have hne : e ≠ s.spos := errAt_ne_spos h he
    dsimp only
    split <;> omega

theorem pullable_of_pull {b : Byte} (h : pullFails s = false) (hb : s.src.data[s.spos]? = some b) :
    s.pullable = b :: (s.withSpos (s.spos + 1)).pullable := by
  obtain ⟨hs, -⟩ := List.getElem?_eq_some_iff.mp hb
  have hp : s.src.present = true := present_of_not_pullFails h
  have htake : (s.src.data.take (readLimit s))[s.spos]? = some b := by
    rw [List.getElem?_take_of_lt (lt_readLimit h hs), hb]
  simp only [State.pullable, readLimit_withSpos_succ h, State.withSpos_src, State.withSpos_spos, hp, if_true]
  rw [List.drop_eq_getElem?_toList_append, htake]
  rfl

/-- Where no byte can be pulled and `SPOS` is not past the end, the next pull fails exactly when the error position ends
the readable bits (R52). -/
theorem pullFails_eq_readsIntoError (h : s.pullable = []) (hs : s.spos ≤ s.src.data.length) :
    pullFails s = readsIntoError s := by
  cases hp : s.src.present with
  | false => simp [pullFails, readsIntoError, hp]
  | true =>
    cases he : s.src.errAt with
    | none => simp [pullFails, readsIntoError, hp, he]
    | some e =>
      have hstop : e < s.spos ∨ e = s.spos ∨ s.src.data.length < e := by
        by_contra hcon
        have hlt : ¬ e < s.spos := by omega
        have hstops : e ≤ s.spos ∨ s.src.data.length ≤ s.spos := by
          simpa [State.pullable, readLimit, hp, he, hlt] using h
        omega
      have hiff : e = s.spos ↔ s.spos ≤ e ∧ e ≤ s.src.data.length := by omega
      simp [pullFails, readsIntoError, hp, he, hiff]

/-! ## Reading -/

/-- The bits `l` were read through the channel: the readable bits and the unread ones begin with them and go on with those
of `t`, and `SPOS` moved, if at all, over bytes the source holds. -/
structure Reads (l : List Bool) (s t : State) : Prop where
  frame : ReadFrame s t
  readable : s.readable = l ++ t.readable
  unread : s.unread = l ++ t.unread
  intoError : readsIntoError t = readsIntoError s
  spos : t.spos = s.spos ∨ (s.spos < t.spos ∧ t.spos ≤ s.src.data.length)

theorem ReadFrame.src_eq (h : ReadFrame s t) : t.src = s.src := by
  unfold ReadFrame at h
  rw [h]

theorem ReadFrame.dir_eq (h : ReadFrame s t) : t.dir = s.dir := by
  unfold ReadFrame at h
  rw [h]

theorem Reads.refl (s : State) : Reads [] s s := ⟨.refl s, rfl, rfl, rfl, .inl rfl⟩

theorem Reads.trans (h : Reads l s t) (k : Reads m t u) : Reads (l ++ m) s u where
  frame := h.frame.trans k.frame
  readable := by rw [h.readable, k.readable, List.append_assoc]
  unread := by rw [h.unread, k.unread, List.append_assoc]
  intoError := k.intoError.trans h.intoError
  spos := by
    have hs := h.spos
    have ks := k.spos
    rw [h.frame.src_eq] at ks
    omega

theorem Reads.spos_le (h : Reads l s t) (hs : s.spos ≤ s.src.data.length) : t.spos ≤ t.src.data.length := by
  have hpos := h.spos
  rw [h.frame.src_eq]
  omega

/-- Where all the readable bits were read, none is left. -/
theorem Reads.readable_eq_nil (h : Reads s.readable s t) : t.readable = [] := List.self_eq_append_right.mp h.readable

theorem pullable_eq_nil_of_readable (h : s.readable = []) : s.pullable = [] := by
  rw [State.readable_eq, List.append_eq_nil_iff] at h
  cases hp : s.pullable with
  | nil => rfl
  | cons v l => simp [hp, byteBits] at h

/-- A bit taken from the buffer is the first readable one (R111). -/
theorem takeBit_reads (hc : 0 < s.cnt.val) :
    ∃ b t, takeBit s = .ok b t ∧ Reads [b] s t := by
  obtain ⟨k, hk⟩ : ∃ k, s.cnt.val = k + 1 := Nat.exists_eq_succ_of_ne_zero (by omega)
  have hk8 : k < 8 := by have := s.cnt.isLt; omega
  refine ⟨_, _, rfl, rfl, ?_, takeBit_unread hc rfl, rfl, .inl rfl⟩
  simp only [State.readable, State.withBuf_buf, State.withBuf_cnt, hk, drop_byteBits s.buf hk8, Nat.add_sub_cancel,
    List.cons_append, List.nil_append]
  rfl

/-- A byte pulled into an empty buffer changes neither the readable bits nor the unread ones (R111). -/
theorem reads_of_pull {b : Byte} (hc : s.cnt.val = 0) (hp : pullFails s = false) (hb : s.src.data[s.spos]? = some b) :
    Reads [] s ((s.withSpos (s.spos + 1)).withBuf b ⟨8, by decide⟩) where
  frame := rfl
  readable := by
    have hpull := pullable_of_pull hp hb
    rw [State.readable_eq, State.readable_eq, hc, hpull]
    rfl
  unread := by
    have hdrop : s.src.data.drop s.spos = b :: s.src.data.drop (s.spos + 1) := by
      rw [List.drop_eq_getElem?_toList_append, hb]
      rfl
    rw [State.unread, State.unread, hc, hdrop]
    rfl
  intoError := readsIntoError_withSpos_succ hp
  spos := .inr ⟨Nat.lt_succ_self _, (List.getElem?_eq_some_iff.mp hb).1⟩

/-- `ReadBit()` on a read channel: the first readable bit, or, where there is none, the failure of the pull or the end
(R111). -/
theorem readBit_ends (hd : s.dir = .read) :
    (∃ b t, readBit s = .ok b t ∧ Reads [b] s t) ∨
    (s.readable = [] ∧ s.cnt.val = 0 ∧ readBit s = .raise (if pullFails s then .ioError else .endOfStream) s) := by
  rcases Nat.eq_zero_or_pos s.cnt.val with hc | hc
  case inr =>
    rw [readBit_of_buffered hd hc]
    exact .inl (takeBit_reads hc)
  have hreadable : s.readable = streamBits s.pullable := by
    rw [State.readable_eq, hc]
    rfl
  cases hp : pullFails s with
  | true => exact .inr ⟨by rw [hreadable, pullable_of_pullFails hp, streamBits_nil], hc, readBit_of_pullFails hd hc hp⟩
  | false =>
    rcases Nat.lt_or_ge s.spos s.src.data.length with hs | hs
    · obtain ⟨v, hv, hr⟩ := readBit_of_pull hd hc hp hs
      obtain ⟨b, t, ht, hreads⟩ := takeBit_reads (s := (s.withSpos (s.spos + 1)).withBuf v ⟨8, by decide⟩) (by simp)
      exact .inl ⟨b, t, hr.trans ht, (reads_of_pull hc hp hv).trans hreads⟩
    · exact .inr ⟨by rw [hreadable, pullable_at_end hs, streamBits_nil], hc, readBit_at_end hd hc hp hs⟩

theorem readBit_of_readable_cons {b : Bool} (hd : s.dir = .read) (h : s.readable = b :: l) :
    ∃ t, readBit s = .ok b t ∧ t.readable = l ∧ Reads [b] s t := by
  obtain ⟨b', t, hr, hreads⟩ | ⟨hnil, -⟩ := readBit_ends hd
  · obtain ⟨rfl, rfl⟩ : b = b' ∧ l = t.readable := by simpa [h] using hreads.readable
    exact ⟨t, hr, rfl, hreads⟩
  · simp [h] at hnil

end

end Sys2Proof.Machine
end

section
/-! PROOF. `GETSYM` (46_decoder.md R200, R201): the walk follows the readable bits to the leaf whose code they begin with,
or takes them all where they begin with no code. -/

namespace Sys2Proof.Machine

/-! ## A node and its children -/

/-- The code of a symbol below a node: the branch taken there, and its code in that subtree (R155). -/
theorem Tree.code?_branch {l r : Tree} {x : Sym} {c : List Bool} (h : (Tree.node l r).code? x = some c) :
    ∃ b q, c = b :: q ∧ (if b then r else l).code? x = some q := by
  obtain ⟨q, hq, rfl⟩ | ⟨q, hq, rfl⟩ := Tree.code?_node_eq_some h
  · exact ⟨false, q, rfl, hq⟩
  · exact ⟨true, q, rfl, hq⟩

theorem Tree.code?_of_branch {l r : Tree} (hnd : (Tree.node l r).leaves.Nodup) {b : Bool} {x : Sym} {q : List Bool}
    (h : (if b then r else l).code? x = some q) : (Tree.node l r).code? x = some (b :: q) := by
  obtain ⟨-, -, hdisj⟩ := List.nodup_append.mp hnd
  cases b with
  | false => exact Tree.code?_left h
  | true =>
    have hxr : x ∈ r.leaves := by
      by_contra hx
      exact Option.some_ne_none q (h.symm.trans ((r.code?_eq_none_iff x).mpr hx))
    exact Tree.code?_right (fun hxl => hdisj x hxl x hxr rfl) h

theorem Tree.nodup_leaves_branch {l r : Tree} (hnd : (Tree.node l r).leaves.Nodup) (b : Bool) :
    (if b then r else l).leaves.Nodup := by
  obtain ⟨hl, hr, -⟩ := List.nodup_append.mp hnd
  cases b
  · exact hl
  · exact hr

theorem absTree_branch {n : Nat} {a : Vector (Option Node) 513} {l r : NodeIx} {tl tr : Tree} {hl hr : List NodeIx}
    (htl : absTree n a l = some (tl, hl)) (htr : absTree n a r = some (tr, hr)) (b : Bool) :
    ∃ hs, absTree n a (if b then r else l) = some (if b then tr else tl, hs) := by
  cases b
  · exact ⟨hl, htl⟩
  · exact ⟨hr, htr⟩

section
variable {s t : State} {n : Nat} {h : NodeIx} {tree : Tree} {hs : List NodeIx}

/-! ## The walk -/

theorem getWalk_of_leaf {e : Node} (he : s.node[h.val]'h.isLt = some e) (hleaf : e.leaf = true) :
    getWalk (n + 1) h s = .ok e.sym s := by
  rw [getWalk, readNode_eq he, Res.bind_ok, if_pos hleaf]

/-- At an Internal node the bit read says which child the walk goes on from (R200). -/
theorem getWalk_of_readBit {e : Node} {l r : NodeIx} {b : Bool} (he : s.node[h.val]'h.isLt = some e)
    (hleaf : e.leaf = false) (hel : e.left = some l) (her : e.right = some r) (hr : readBit s = .ok b t) :
    getWalk (n + 1) h s = getWalk n (if b then r else l) t := by
  rw [getWalk, readNode_eq he, Res.bind_ok, if_neg (by simp [hleaf]), hr, Res.onEnd_ok, Res.bind_ok]
  cases b with
  | false => rw [if_neg Bool.false_ne_true, if_neg Bool.false_ne_true, hel, follow, Res.bind_ok]
  | true => rw [if_pos rfl, if_pos rfl, her, follow, Res.bind_ok]

/-- Where no bit can be read there, the walk fails, and the end of the source inside it is `TruncatedStream` (R201). -/
theorem getWalk_of_raise {e : Node} {f : Failure} (he : s.node[h.val]'h.isLt = some e) (hleaf : e.leaf = false)
    (hr : readBit s = .raise f t) :
    getWalk (n + 1) h s = .raise (if f = .endOfStream then .truncatedStream else f) t := by
  rw [getWalk, readNode_eq he, Res.bind_ok, if_neg (by simp [hleaf]), hr, Res.onEnd_raise, Res.bind_raise]

/-- Where the readable bits begin with the code of a symbol, the walk returns it and reads exactly its code (R200). -/
theorem getWalk_of_code {x : Sym} {c m : List Bool} (htree : absTree n s.node h = some (tree, hs)) (hd : s.dir = .read)
    (hc : tree.code? x = some c) (hm : s.readable = c ++ m) : ∃ t, getWalk n h s = .ok x t ∧ Reads c s t := by
  induction n generalizing h s tree hs c with
  | zero => cases htree
  | succ n ih =>
    obtain ⟨e, he, ⟨hleaf, rfl, -⟩ | ⟨hleaf, l, r, tl, hl, tr, hr, hel, her, htl, htr, rfl, -⟩⟩ := absTree_cases htree
    · obtain ⟨rfl, rfl⟩ : x = e.sym ∧ c = [] := by simpa [Tree.code?, eq_comm] using hc
      exact ⟨s, getWalk_of_leaf he hleaf, .refl s⟩
    · obtain ⟨b, q, rfl, hq⟩ := Tree.code?_branch hc
      obtain ⟨u, hu, hrest, hreads⟩ := readBit_of_readable_cons hd hm
      obtain ⟨hs, hchild⟩ := absTree_branch htl htr b
      rw [← hreads.frame.node_eq] at hchild
      obtain ⟨t, ht, hsub⟩ := ih hchild (hreads.frame.dir_eq.trans hd) hq hrest
      exact ⟨t, (getWalk_of_readBit he hleaf hel her hu).trans ht, hreads.trans hsub⟩

/-- Where they begin with no symbol's code, the walk reads them all and fails at the pull after them (R201). -/
theorem getWalk_of_no_code (htree : absTree n s.node h = some (tree, hs)) (hnd : tree.leaves.Nodup) (hd : s.dir = .read)
    (hno : ∀ x c, tree.code? x = some c → ¬ c <+: s.readable) :
    ∃ t, getWalk n h s = .raise (if pullFails t then .ioError else .truncatedStream) t ∧ Reads s.readable s t ∧
      t.cnt.val = 0 := by
  induction n generalizing h s tree hs with
  | zero => cases htree
  | succ n ih =>
    obtain ⟨e, he, ⟨hleaf, rfl, -⟩ | ⟨hleaf, l, r, tl, hl, tr, hr, hel, her, htl, htr, rfl, -⟩⟩ := absTree_cases htree
    · exact absurd List.nil_prefix (hno e.sym [] (by simp [Tree.code?]))
    · obtain ⟨b, u, hu, hreads⟩ | ⟨hnil, hcnt, hfail⟩ := readBit_ends hd
      · obtain ⟨hs, hchild⟩ := absTree_branch htl htr b
        rw [← hreads.frame.node_eq] at hchild
        rw [hreads.readable] at hno ⊢
        have hsub : ∀ x q, (if b then tr else tl).code? x = some q → ¬ q <+: u.readable := fun x q hq hpre =>
          hno x (b :: q) (Tree.code?_of_branch hnd hq) ((List.prefix_append_right_inj [b]).mpr hpre)
        obtain ⟨t, ht, hrest, hcnt⟩ :=
          ih hchild (Tree.nodup_leaves_branch hnd b) (hreads.frame.dir_eq.trans hd) hsub
        exact ⟨t, (getWalk_of_readBit he hleaf hel her hu).trans ht, hreads.trans hrest, hcnt⟩
      · refine ⟨s, ?_, hnil ▸ .refl s, hcnt⟩
        rw [getWalk_of_raise he hleaf hfail]
        cases pullFails s <;> rfl

/-! ## The command -/

theorem getsymBody_of_no_tree (hd : s.dir = .read) (hv : s.treeV = false) : getsymBody s = .raise .notReady s := by
  rw [getsymBody, if_neg (not_not_intro hd), if_pos hv]

/-- With the channel open for reading and a tree in the arena `GETSYM` is the walk from the root (R201). -/
theorem getsymBody_eq_getWalk (hd : s.dir = .read) (hv : s.treeV = true) (htree : s.tree? = some (tree, hs)) :
    ∃ r, absTree maxFrames s.node r = some (tree, hs) ∧ getsymBody s = getWalk maxFrames r s := by
  obtain ⟨r, hroot, hr⟩ := State.tree?_eq_some_iff.mp htree
  refine ⟨r, hr, ?_⟩
  rw [getsymBody, if_neg (not_not_intro hd), if_neg (by simp [hv]), hroot, follow, Res.bind_ok]

theorem getsymBody_of_code {x : Sym} {c m : List Bool} (hd : s.dir = .read) (hv : s.treeV = true)
    (htree : s.tree? = some (tree, hs)) (hc : tree.code? x = some c) (hm : s.readable = c ++ m) :
    ∃ t, getsymBody s = .ok x t ∧ Reads c s t := by
  obtain ⟨r, hr, hbody⟩ := getsymBody_eq_getWalk hd hv htree
  rw [hbody]
  exact getWalk_of_code hr hd hc hm

theorem getsymBody_of_no_code (hd : s.dir = .read) (hv : s.treeV = true) (htree : s.tree? = some (tree, hs))
    (hnd : tree.leaves.Nodup) (hno : ∀ x c, tree.code? x = some c → ¬ c <+: s.readable) :
    ∃ t, getsymBody s = .raise (if pullFails t then .ioError else .truncatedStream) t ∧ Reads s.readable s t ∧
      t.cnt.val = 0 := by
  obtain ⟨r, hr, hbody⟩ := getsymBody_eq_getWalk hd hv htree
  rw [hbody]
  exact getWalk_of_no_code hr hnd hd hno

theorem exec_getsym_of_ok {x : Sym} (hr : getsymBody s = .ok x t) : exec .getsym s = .next (endOk x t) :=
  congrArg finish hr

theorem exec_getsym_of_raise {f : Failure} (hr : getsymBody s = .raise f t) : exec .getsym s = .next (endFail f t) :=
  congrArg finish hr

end

/-- Settles O50: the two tests leave the state alone, and past them the command is the walk, by a symbol's code or to the
end of the readable bits. -/
theorem getsymDecodesOneSymbol : Obligations.GetsymDecodesOneSymbol := by
  unfold Obligations.GetsymDecodesOneSymbol
  refine fun s => ⟨fun hd => ?_, fun hd hv => ?_, fun tree hs x c l hd hv htree hc hl => ?_,
    fun tree hs hd hv htree hnd hpos hno => ?_⟩
  · exact ⟨_, exec_of_wrong_dir rfl hd, endFail_onlyFails _ s⟩
  · exact ⟨_, exec_getsym_of_raise (getsymBody_of_no_tree hd hv), endFail_onlyFails _ s⟩
  · obtain ⟨t, ht, hreads⟩ := getsymBody_of_code hd hv htree hc hl
    have hrest : t.readable = l := List.append_cancel_left (hreads.readable.symm.trans hl)
    exact ⟨_, exec_getsym_of_ok ht, hreads.frame.body.endsOk x, hrest, hreads.unread, hreads.frame.keeps⟩
  · obtain ⟨t, ht, hreads, hcnt⟩ := getsymBody_of_no_code hd hv htree hnd hno
    have hnil : t.readable = [] := hreads.readable_eq_nil
    have hfail : pullFails t = readsIntoError s :=
      (pullFails_eq_readsIntoError (pullable_eq_nil_of_readable hnil) (hreads.spos_le hpos)).trans hreads.intoError
    rw [hfail] at ht
    exact ⟨_, exec_getsym_of_raise ht, hreads.frame.body.endsFailed _, hnil, hcnt, hreads.frame.keeps⟩

end Sys2Proof.Machine
end

section
/-! PROOF. `InvalidDirection` (60_exceptions.md R220): only the test of the direction raises it, before anything is changed. -/

namespace Sys2Proof.Machine

/-- Settles O16: past the test of the direction no command raises it, and at the test the command is the entry of the
failure. -/
theorem invalidDirectionChangesNothingElse : Obligations.InvalidDirectionChangesNothingElse := by
  unfold Obligations.InvalidDirectionChangesNothingElse
  intro i s t hi h hf
  cases hd : dirFailure i s.dir with
  | none => exact absurd rfl (failure_of_dirFailure_eq_none hi hd h hf).2
  | some f =>
    cases (exec_of_dirFailure hd).symm.trans h
    cases hf
    exact ⟨endFail_onlyFails _ s, (getLsbD_recordFault s.faults _ 2).trans (Bool.or_true _), rfl⟩

end Sys2Proof.Machine
end

section
/-! PROOF. The symbols `BUILD` and `CODES` carry from the table to the codes (42_treebuilder.md R140, R141; 43_codetable.md
R155): a command that completes leaves a leaf for every byte counted, and a code for every leaf below the root. What is
said here needs no invariant of the state it starts from. -/

namespace Sys2Proof.Machine

/-! ## Leaves below a node -/

/-- From the node `h` children lead, by allocated nodes only, to a leaf with the symbol `x`. -/
inductive LeadsTo (s : State) (x : Sym) : NodeIx → Prop
  | leaf {h : NodeIx} {e : Node} (hn : h.val < s.ncnt.val) (he : s.node[h.val] = some e) (hleaf : e.leaf = true)
      (hx : e.sym = x) : LeadsTo s x h
  | child {h g : NodeIx} {e : Node} (b : Bool) (hn : h.val < s.ncnt.val) (he : s.node[h.val] = some e)
      (hleaf : e.leaf = false) (hg : (if b then e.right else e.left) = some g) (hlead : LeadsTo s x g) : LeadsTo s x h

section
variable {s t : State} {x : Sym} {g h r : NodeIx} {e : Node} {q q' : List QEntry}

/-- An arena that keeps the allocated nodes keeps what they lead to. -/
theorem LeadsTo.of_node (hlead : LeadsTo s x h) (hn : s.ncnt.val ≤ t.ncnt.val)
    (he : ∀ k : NodeIx, k.val < s.ncnt.val → t.node[k.val] = s.node[k.val]) : LeadsTo t x h := by
  induction hlead with
  | leaf hk hek hleaf hx => exact .leaf (hk.trans_le hn) ((he _ hk).trans hek) hleaf hx
  | child b hk hek hleaf hg _ ih => exact .child b (hk.trans_le hn) ((he _ hk).trans hek) hleaf hg ih

/-- `alloc(e)`, when it completes: the node is there, and the nodes allocated before are as they were (R30). -/
theorem alloc_eq_ok (hr : alloc e s = .ok g t) :
    g.val < t.ncnt.val ∧ s.ncnt.val ≤ t.ncnt.val ∧ t.node[g.val] = some e ∧
      ∀ k : NodeIx, k.val < s.ncnt.val → t.node[k.val] = s.node[k.val] := by
  obtain ⟨-, hfull⟩ | ⟨hroom, hok⟩ := alloc_cases e s
  · cases hfull.symm.trans hr
  · cases hok.symm.trans hr
    exact ⟨Nat.lt_succ_self _, Nat.le_succ _, Vector.getElem_set_self _,
      fun k hk => Vector.getElem_set_ne hroom k.isLt (Nat.ne_of_gt hk)⟩

theorem LeadsTo.alloc (hlead : LeadsTo s x h) (hr : alloc e s = .ok g t) : LeadsTo t x h := by
  obtain ⟨-, hn, -, he⟩ := alloc_eq_ok hr
  exact hlead.of_node hn he

/-! ## `BUILD` -/

/-- Some node in the queue leads to a leaf with the symbol `x`. -/
def Queues (s : State) (x : Sym) (q : List QEntry) : Prop := ∃ m ∈ q, LeadsTo s x m.h

/-- Every leaf of the list gets into the queue, and what is in it stays (R141). -/
theorem allocLeaves_queues {l : List (Sym × Nat)} (hr : allocLeaves l q s = .ok q' t)
    (hx : Queues s x q ∨ ∃ w, (x, w) ∈ l) : Queues t x q' := by
  induction l generalizing q s with
  | nil =>
    cases hr
    simpa using hx
  | cons p l ih =>
    obtain ⟨g, u, ha, hrest⟩ := Res.bind_eq_ok.mp hr
    refine ih hrest ?_
    obtain ⟨m, hm, hlead⟩ | ⟨w, hw⟩ := hx
    · exact .inl ⟨m, List.mem_cons_of_mem _ hm, hlead.alloc ha⟩
    · obtain rfl | hw := List.mem_cons.mp hw
      · obtain ⟨hg, -, he, -⟩ := alloc_eq_ok ha
        exact .inl ⟨_, List.mem_cons_self, .leaf hg he rfl rfl⟩
      · exact .inr ⟨w, hw⟩

/-- A merge keeps every leaf: what the two nodes lead to, their parent leads to (R141, R144). -/
theorem mergeLoop_leadsTo {n : Nat} (hr : mergeLoop n q s = .ok r t) (hx : Queues s x q) : LeadsTo t x r := by
  induction n generalizing q s with
  | zero => cases hr
  | succ n ih =>
    obtain ⟨m, hm, hlead⟩ := hx
    rw [mergeLoop] at hr
    cases ha : popMin q with
    | none => simp [ha] at hr
    | some p =>
      obtain ⟨a, q1⟩ := p
      have hma := (popMin_perm ha).subset hm
      cases hb : popMin q1 with
      | none =>
        obtain rfl := popMin_eq_none_iff.mp hb
        obtain rfl := List.mem_singleton.mp hma
        simp only [ha, hb, Res.ok.injEq] at hr
        obtain ⟨rfl, rfl⟩ := hr
        exact hlead
      | some p =>
        obtain ⟨b, q2⟩ := p
        simp only [ha, hb] at hr
        obtain ⟨g, u, halloc, hrest⟩ := Res.bind_eq_ok.mp hr
        obtain ⟨hg, -, he, -⟩ := alloc_eq_ok halloc
        have hleadu : LeadsTo u x m.h := hlead.alloc halloc
        refine ih hrest ?_
        obtain rfl | hm1 := List.mem_cons.mp hma
        · exact ⟨_, List.mem_cons_self, .child false hg he rfl rfl hleadu⟩
        · obtain rfl | hm2 := List.mem_cons.mp ((popMin_perm hb).subset hm1)
          · exact ⟨_, List.mem_cons_self, .child true hg he rfl rfl hleadu⟩
          · exact ⟨m, List.mem_cons_of_mem _ hm2, hleadu⟩

/-- The tree at `ROOT` has a leaf with the symbol `x`. -/
def State.HasLeaf (s : State) (x : Sym) : Prop := ∃ r, s.root = some r ∧ LeadsTo s x r

/-- A `BUILD` that completes leaves a valid tree with every leaf that stands for an entry of the table (R141). -/
theorem buildBody_hasLeaf {counts : List Nat} {w : Nat} (hv : s.ftV = true) (hft : allWritten s.ft.toList = some counts)
    (hr : buildBody s = .ok () t) (hx : (x, w) ∈ buildLeaves counts) : t.HasLeaf x := by
  rw [buildBody_of_counts hv hft] at hr
  obtain ⟨q, u, hleaves, hr⟩ := Res.bind_eq_ok.mp hr
  obtain ⟨r, v, hmerge, hr⟩ := Res.bind_eq_ok.mp hr
  cases hr
  have hlead : LeadsTo v x r := mergeLoop_leadsTo hmerge (allocLeaves_queues hleaves (.inr ⟨w, hx⟩))
  exact ⟨r, rfl, hlead.of_node le_rfl fun _ _ => rfl⟩

theorem buildBody_treeV (hr : buildBody s = .ok () t) : t.treeV = true := by
  unfold buildBody at hr
  split at hr
  · cases hr
  · split at hr
    · cases hr
    · obtain ⟨q, u, -, hr⟩ := Res.bind_eq_ok.mp hr
      obtain ⟨r, v, -, hr⟩ := Res.bind_eq_ok.mp hr
      cases hr
      rfl

end

/-! ## The leaves of a counted source -/

/-- The table of a byte sequence, entry by entry. -/
theorem toList_countTable (l : List Byte) : (countTable l).toList = (allBytes.map l.count).map some := by
  refine List.ext_getElem (by simp [allBytes]) fun i hi _ => ?_
  rw [Vector.length_toList] at hi
  simp [Vector.getElem_toList, getElem_countTable l hi, allBytes]

theorem mem_allBytes (b : Byte) : b ∈ allBytes :=
  List.mem_map.mpr ⟨b.toNat, List.mem_range.mpr b.isLt, by simp⟩

/-- A byte that occurs is a leaf, with its count as weight (R140, R141). -/
theorem mem_buildLeaves_of_mem {l : List Byte} {b : Byte} (hb : b ∈ l) :
    (byteSym b, l.count b) ∈ buildLeaves (allBytes.map l.count) := by
  have hzip : (b, l.count b) ∈ allBytes.zip (allBytes.map l.count) := by
    rw [← List.map_prod_left_eq_zip]
    exact List.mem_map.mpr ⟨b, mem_allBytes b, rfl⟩
  have hpresent : (byteSym b, l.count b) ∈ presentBytes (allBytes.map l.count) :=
    List.mem_map.mpr ⟨(b, l.count b), List.mem_filter.mpr ⟨hzip, by simpa using hb⟩, rfl⟩
  unfold buildLeaves
  split
  case h_1 hnil => exact absurd hpresent (hnil ▸ List.not_mem_nil)
  case h_2 => exact List.mem_append_left _ hpresent

/-! ## `CODES` -/

/-- `CT` holds a code for the symbol `x`. -/
def State.HasCode (s : State) (x : Sym) : Prop := ∃ e, s.ct[x.val] = some e ∧ e.v = true

section
variable {s t : State} {x : Sym} {h : NodeIx}

theorem readNode_eq_ok {e : Node} (hr : readNode h s = .ok e t) : s.node[h.val] = some e ∧ s = t := by
  unfold readNode at hr
  split at hr
  case h_1 => cases hr
  case h_2 he =>
    cases hr
    exact ⟨he, rfl⟩

theorem readCt_eq_ok {e : CodeEntry} (hr : readCt x s = .ok e t) : s.ct[x.val] = some e ∧ s = t := by
  unfold readCt at hr
  split at hr
  case h_1 => cases hr
  case h_2 he =>
    cases hr
    exact ⟨he, rfl⟩

theorem follow_eq_ok {k : Handle} (hr : follow k s = .ok h t) : k = some h ∧ s = t := by
  cases k with
  | none => cases hr
  | some g =>
    cases hr
    exact ⟨rfl, rfl⟩

/-- A code written for one symbol leaves every other symbol the code it has. -/
theorem hasCode_writeCt {y : Sym} (c : List Bool) (hx : y = x ∨ s.HasCode x) :
    (writeCt y { v := true, code := c } s).HasCode x := by
  by_cases hyx : y = x
  · subst hyx
    exact ⟨_, Vector.getElem_set_self _, rfl⟩
  · obtain ⟨e, he, hv⟩ := hx.resolve_left hyx
    exact ⟨e, (Vector.getElem_set_ne y.isLt x.isLt (mt Fin.ext hyx)).trans he, hv⟩

/-- Only the code table may differ. -/
def CtFrame (s t : State) : Prop := t = s.withCt t.ct

theorem CtFrame.trans {u : State} (hs : CtFrame s t) (ht : CtFrame t u) : CtFrame s u := by
  unfold CtFrame at *
  rw [ht, hs]
  rfl

theorem CtFrame.leadsTo (hf : CtFrame s t) (hlead : LeadsTo s x h) : LeadsTo t x h := by
  unfold CtFrame at hf
  rw [hf]
  exact hlead.of_node le_rfl fun _ _ => rfl

/-- The walk, when it completes, has written nothing but codes: symbols that had one keep one, and every leaf below the
node it started from has one (R155, R156). -/
theorem codesWalk_eq_ok {n : Nat} {c : List Bool} (hr : codesWalk n h c s = .ok () t) :
    CtFrame s t ∧ (∀ x, s.HasCode x → t.HasCode x) ∧ ∀ x, LeadsTo s x h → t.HasCode x := by
  induction n generalizing h c s t with
  | zero => cases hr
  | succ n ih =>
    obtain ⟨e, s0, hnode, hwalk⟩ := Res.bind_eq_ok.mp hr
    obtain ⟨he, rfl⟩ := readNode_eq_ok hnode
    split at hwalk
    case isTrue hleaf =>
      cases hwalk
      refine ⟨rfl, fun x hx => hasCode_writeCt c (.inr hx), fun x hlead => ?_⟩
      cases hlead with
      | leaf _ he' _ hx =>
        cases he.symm.trans he'
        exact hasCode_writeCt c (.inl hx)
      | child _ _ he' hinner =>
        cases he.symm.trans he'
        cases hleaf.symm.trans hinner
    case isFalse hinner =>
      obtain ⟨l, s1, hl, hwalk⟩ := Res.bind_eq_ok.mp hwalk
      obtain ⟨hel, rfl⟩ := follow_eq_ok hl
      obtain ⟨⟨⟩, u, hwl, hwalk⟩ := Res.bind_eq_ok.mp hwalk
      obtain ⟨r, s2, hright, hwr⟩ := Res.bind_eq_ok.mp hwalk
      obtain ⟨her, rfl⟩ := follow_eq_ok hright
      obtain ⟨hfl, hkl, hcl⟩ := ih hwl
      obtain ⟨hfr, hkr, hcr⟩ := ih hwr
      refine ⟨hfl.trans hfr, fun x hx => hkr x (hkl x hx), fun x hlead => ?_⟩
      cases hlead with
      | leaf _ he' hleaf =>
        cases he.symm.trans he'
        exact absurd hleaf hinner
      | child b _ he' _ hg hlead =>
        cases he.symm.trans he'
        cases b with
        | false =>
          cases hel.symm.trans hg
          exact hkr x (hcl x hlead)
        | true =>
          cases her.symm.trans hg
          exact hcr x (hfl.leadsTo hlead)

/-- A `CODES` that completes leaves a valid code table with a code for every leaf of the tree, which is kept (R156). -/
theorem codesBody_eq_ok (hr : codesBody s = .ok () t) :
    t.ctV = true ∧ t.treeV = true ∧ ∀ x, s.HasLeaf x → t.HasCode x := by
  unfold codesBody at hr
  split at hr
  case isTrue => cases hr
  case isFalse hv =>
    obtain ⟨r, s1, hfollow, hsteps⟩ := Res.bind_eq_ok.mp hr
    obtain ⟨hroot, rfl⟩ := follow_eq_ok hfollow
    obtain ⟨⟨⟩, u, hwalk, hend⟩ := Res.bind_eq_ok.mp hsteps
    cases hend
    obtain ⟨hframe, -, hcodes⟩ := codesWalk_eq_ok hwalk
    refine ⟨rfl, ?_, fun x hx => ?_⟩
    · rw [hframe]
      simpa using hv
    · obtain ⟨r', hroot', hlead⟩ := hx
      cases hroot.symm.trans hroot'
      exact hcodes x (hlead.of_node le_rfl fun _ _ => rfl)

end

end Sys2Proof.Machine
end

section
/-! PROOF. The tests that raise `NotReady` (60_exceptions.md R219): each command's own, before anything is changed. -/

namespace Sys2Proof.Machine

section
variable {α : Type} {s t : State} {r : Res α} {d : Dir} {fs : List Failure} {f : Failure}

/-! ## A test in front of an operation -/

theorem Res.EndsIn.ne_raise (h : r.EndsIn d fs) (hf : f ∉ fs) : r ≠ .raise f t := by
  rintro rfl
  exact hf h

theorem Res.EndsIn.of_eq_ok {a : α} (h : r.EndsIn d fs) (hr : r = .ok a t) : t.dir = d := by
  rw [hr] at h
  exact h

theorem Res.zero_eq_raise {r : Res Unit} : r.zero = .raise f t ↔ r = .raise f t := by
  cases r <;> simp [Res.zero]

/-- Where only the test `c` can raise `NotReady`, the state is the one tested and the test has failed. -/
theorem notReady_of_test {c : Prop} [Decidable c] (hr : ¬c → r.EndsIn d fs) (hf : Failure.notReady ∉ fs)
    (h : (if c then .raise .notReady s else r) = .raise .notReady t) : t = s ∧ c := by
  split at h
  case isTrue hc =>
    cases h
    exact ⟨rfl, hc⟩
  case isFalse hc => exact absurd h ((hr hc).ne_raise hf)

/-- Behind the test of the direction, which raises another failure. -/
theorem notReady_of_dir_test (h : (if s.dir ≠ d then .raise .invalidDirection s else r) = .raise .notReady t) :
    s.dir = d ∧ r = .raise .notReady t := by
  split at h
  case isTrue => cases h
  case isFalse hd => exact ⟨not_not.mp hd, h⟩

/-! ## Each command's own test -/

theorem openrBody_notReady (h : openrBody s = .raise .notReady t) : t = s ∧ s.dir ≠ .closed := by
  refine notReady_of_test (d := .read) (fs := [.ioError]) (fun _ => ?_) (by decide) h
  split
  · exact .raise (by decide)
  · exact (srcRewind_endsIn rfl).bind (List.Subset.refl _) fun _ _ _ => rfl

theorem openwBody_notReady (h : openwBody s = .raise .notReady t) : t = s ∧ s.dir ≠ .closed := by
  refine notReady_of_test (d := .write) (fs := [.ioError]) (fun _ => ?_) (by decide) h
  split
  · exact .raise (by decide)
  · exact rfl

theorem freqBody_notReady (h : freqBody s = .raise .notReady t) : t = s ∧ s.dir = .read := by
  refine notReady_of_test (d := s.dir) (fs := [.ioError]) (fun _ => ?_) (by decide) h
  exact .bind (srcRewind_endsIn rfl) (List.Subset.refl _) fun _ _ hu =>
    .bind (freqLoop_endsIn _ hu) (List.Subset.refl _) fun _ _ hv => hv

theorem buildBody_notReady (h : buildBody s = .raise .notReady t) : t = s ∧ s.ftV = false := by
  refine notReady_of_test (d := s.dir) (fs := []) (fun _ => ?_) List.not_mem_nil h
  split
  · trivial
  · exact .bind (allocLeaves_endsIn _ _ rfl) (List.Subset.refl _) fun q _ hu =>
      .bind (mergeLoop_endsIn _ q hu) (List.Subset.refl _) fun _ _ hv => hv

theorem codesBody_notReady (h : codesBody s = .raise .notReady t) : t = s ∧ s.treeV = false := by
  refine notReady_of_test (d := s.dir) (fs := []) (fun _ => ?_) List.not_mem_nil h
  exact .bind (follow_endsIn s.root rfl) (List.Subset.refl _) fun r _ hu =>
    .bind (codesWalk_endsIn _ r [] hu) (List.Subset.refl _) fun _ _ hv => hv

theorem sertreeBody_notReady (h : sertreeBody s = .raise .notReady t) : t = s ∧ s.treeV = false := by
  obtain ⟨hd, h⟩ := notReady_of_dir_test h
  refine notReady_of_test (d := .write) (fs := [.ioError]) (fun _ => ?_) (by decide) h
  exact (follow_endsIn s.root hd).bind (List.nil_subset _) fun r _ hu => serWalk_endsIn _ r hu

theorem getsymBody_notReady (h : getsymBody s = .raise .notReady t) : t = s ∧ s.treeV = false := by
  obtain ⟨hd, h⟩ := notReady_of_dir_test h
  refine notReady_of_test (d := .read) (fs := [.ioError, .truncatedStream]) (fun _ => ?_) (by decide) h
  exact (follow_endsIn s.root hd).bind (List.nil_subset _) fun r _ hu => getWalk_endsIn _ r hu

theorem puttermBody_notReady (h : puttermBody s = .raise .notReady t) : t = s ∧ s.ctV = false := by
  obtain ⟨hd, h⟩ := notReady_of_dir_test h
  exact notReady_of_test (fun _ => putCode_endsIn TERM hd) (by decide) h

/-- `PUTSYM` tests the table and then its entry (R186). -/
theorem putsymBody_notReady {v : Byte} (h : putsymBody v s = .raise .notReady t) :
    t = s ∧ (s.ctV = false ∨ ¬ s.HasCode (byteSym v)) := by
  obtain ⟨hd, h⟩ := notReady_of_dir_test h
  split at h
  case isTrue hv =>
    cases h
    exact ⟨rfl, .inl hv⟩
  case isFalse =>
    obtain hread | ⟨e, u, hread, hentry⟩ := Res.bind_eq_raise.mp h
    · exact absurd hread ((readCt_endsIn (byteSym v) rfl).ne_raise List.not_mem_nil)
    · obtain ⟨he, rfl⟩ := readCt_eq_ok hread
      split at hentry
      case isTrue => exact absurd hentry ((putCode_endsIn _ hd).ne_raise (by decide))
      case isFalse hev =>
        cases hentry
        refine ⟨rfl, .inr ?_⟩
        rintro ⟨e', he', hev'⟩
        cases he.symm.trans he'
        exact hev hev'

end

end Sys2Proof.Machine
end

section
/-! PROOF. `COMPRESS` and `DECOMPRESS` do not raise `NotReady` inside their steps (45_encoder.md R189; 46_decoder.md R203;
60_exceptions.md R219): each step leaves what the test of a later one asks for. -/

namespace Sys2Proof.Machine

section
variable {α β : Type} {s t : State} {r : Res α} {d : Dir} {fs : List Failure} {P Q : State → Prop}

/-! ## Operations that do not raise it -/

/-- The operation completes in a state with `P`, or raises a failure other than `NotReady`. -/
def Res.Ready (P : State → Prop) : Res α → Prop
  | .ok _ t => P t
  | .raise f _ => f ≠ .notReady
  | .stuck _ => True

theorem Res.Ready.intro (hn : ∀ t, r ≠ .raise .notReady t) (hok : ∀ a t, r = .ok a t → P t) : r.Ready P := by
  cases r with
  | ok a t => exact hok a t rfl
  | raise f t =>
    rintro rfl
    exact hn t rfl
  | stuck e => trivial

theorem Res.Ready.ne_raise (h : r.Ready P) : r ≠ .raise .notReady t := by
  rintro rfl
  exact h rfl

theorem Res.Ready.bind {k : α → State → Res β} (h : r.Ready P) (hk : ∀ a t, P t → (k a t).Ready Q) :
    (r.bind k).Ready Q := by
  cases r with
  | ok a t => exact hk a t h
  | raise f t => exact h
  | stuck e => trivial

theorem Res.Ready.finally {g : State → State} (h : r.Ready P) : (r.finally g).Ready fun _ => True := by
  cases r with
  | ok a t => trivial
  | raise f t => exact h
  | stuck e => trivial

theorem Res.EndsIn.ready (h : r.EndsIn d fs) (hf : Failure.notReady ∉ fs) : r.Ready (·.dir = d) :=
  .intro (fun _ => h.ne_raise hf) fun _ _ => h.of_eq_ok

/-! ## What `COMPRESS` has when it comes to each test -/

/-- After `FREQ`: a valid table of the source, and the channel still closed. -/
structure Counted (s : State) : Prop where
  dir : s.dir = .closed
  ftV : s.ftV = true
  ft : s.ft = countTable s.src.data

/-- After `BUILD`: a valid tree with a leaf for every byte of the source, and the channel still closed. -/
structure Built (s : State) : Prop where
  dir : s.dir = .closed
  treeV : s.treeV = true
  leaves : ∀ b ∈ s.src.data, s.HasLeaf (byteSym b)

/-- From `CODES` on: a valid tree, and a valid code table with a code for every byte of the source. -/
structure Coded (s : State) : Prop where
  treeV : s.treeV = true
  ctV : s.ctV = true
  codes : ∀ b ∈ s.src.data, s.HasCode (byteSym b)

theorem Coded.withChan (h : Coded s) (d : Dir) (b : Byte) (c : Fin 9) : Coded (s.withChan d b c) :=
  ⟨h.treeV, h.ctV, h.codes⟩

theorem Coded.withSpos (h : Coded s) (n : Nat) : Coded (s.withSpos n) := ⟨h.treeV, h.ctV, h.codes⟩

theorem WriteFrame.coded (hf : WriteFrame s t) (h : Coded s) : Coded t := by
  unfold WriteFrame at hf
  rw [hf]
  exact ⟨h.treeV, h.ctV, h.codes⟩

theorem freqBody_ftV (h : freqBody s = .ok () t) : t.ftV = true := by
  unfold freqBody at h
  split at h
  · cases h
  · obtain ⟨⟨⟩, u, -, hloop⟩ := Res.bind_eq_ok.mp h
    obtain ⟨⟨⟩, v, -, hend⟩ := Res.bind_eq_ok.mp hloop
    cases hend
    rfl

theorem freqBody_ready (hd : s.dir = .closed) : (freqBody s).Ready Counted := by
  refine .intro (fun t h => ?_) fun _ t h => ⟨(freqBody_endsIn hd).of_eq_ok h, freqBody_ftV h, ?_⟩
  · cases hd.symm.trans (freqBody_notReady h).2
  · rw [((freqBody_bodyFrame s).of_eq_ok h).src]
    exact freqBody_ft_of_eq_ok h

theorem buildBody_ready (hs : Counted s) : (buildBody s).Ready Built := by
  have hcounts : allWritten s.ft.toList = some (allBytes.map s.src.data.count) := by
    rw [hs.ft, toList_countTable, allWritten_map_some]
  refine .intro (fun t h => ?_) fun _ t h => ⟨(buildBody_endsIn hs.dir).of_eq_ok h, buildBody_treeV h, ?_⟩
  · cases hs.ftV.symm.trans (buildBody_notReady h).2
  · rw [((buildBody_bodyFrame s).of_eq_ok h).src]
    exact fun b hb => buildBody_hasLeaf hs.ftV hcounts h (mem_buildLeaves_of_mem hb)

theorem codesBody_ready (hs : Built s) : (codesBody s).Ready fun t => t.dir = .closed ∧ Coded t := by
  refine .intro (fun t h => ?_) fun _ t h => ?_
  · cases hs.treeV.symm.trans (codesBody_notReady h).2
  · obtain ⟨hct, htree, hcodes⟩ := codesBody_eq_ok h
    refine ⟨(codesBody_endsIn hs.dir).of_eq_ok h, htree, hct, ?_⟩
    rw [((codesBody_bodyFrame s).of_eq_ok h).src]
    exact fun b hb => hcodes _ (hs.leaves b hb)

theorem openwBody_ready (hd : s.dir = .closed) (hs : Coded s) : (openwBody s).Ready Coded := by
  cases hp : s.snk.present with
  | false =>
    rw [openwBody_of_no_sink hd hp]
    exact nofun
  | true =>
    rw [openwBody_of_sink hd hp]
    exact hs.withChan _ _ _

theorem sertreeBody_frame (s : State) : (sertreeBody s).All (WriteFrame s) := by
  unfold sertreeBody
  split
  · exact WriteFrame.refl s
  · split
    · exact WriteFrame.refl s
    · cases s.root with
      | none => trivial
      | some r => exact serWalk_frame maxFrames r s

theorem sertreeBody_ready (hs : Coded s) : (sertreeBody s).Ready Coded := by
  refine .intro (fun t h => ?_) fun _ t h => ((sertreeBody_frame s).of_eq_ok h).coded hs
  cases hs.treeV.symm.trans (sertreeBody_notReady h).2

theorem srcRewind_ready (hs : Coded s) : (srcRewind s).Ready Coded := by
  unfold srcRewind
  split
  · exact nofun
  · exact hs.withSpos 0

theorem putsymBody_frame (v : Byte) (s : State) : (putsymBody v s).All (WriteFrame s) := by
  unfold putsymBody readCt
  split
  · exact WriteFrame.refl s
  · split
    · exact WriteFrame.refl s
    · split
      · trivial
      · rw [Res.bind_ok]
        split
        · exact putCode_frame _ s
        · exact WriteFrame.refl s

theorem putsymBody_ready {b : Byte} (hs : Coded s) (hb : b ∈ s.src.data) : (putsymBody b s).Ready Coded := by
  refine .intro (fun t h => ?_) fun _ t h => ((putsymBody_frame b s).of_eq_ok h).coded hs
  obtain hv | hcode := (putsymBody_notReady h).2
  · cases hs.ctV.symm.trans hv
  · exact hcode (hs.codes b hb)

/-- Step 4 of `COMPRESS` puts bytes of the source only, and each has a code (R189). -/
theorem encodeLoop_ready (n : Nat) (hs : Coded s) : (encodeLoop n s).Ready Coded := by
  induction n generalizing s with
  | zero => trivial
  | succ n ih =>
    rw [encodeLoop]
    obtain ⟨h, -⟩ | ⟨h, -⟩ | ⟨b, h, -, -, hb⟩ := srcPull_cases s
    · rw [h]
      exact nofun
    · rw [h]
      exact hs
    · rw [h, Res.bind_ok]
      exact (putsymBody_ready (hs.withSpos (s.spos + 1)) (List.mem_of_getElem? hb)).bind fun _ _ ht => ih ht

theorem puttermBody_ready (hs : Coded s) : (puttermBody s).Ready fun _ => True := by
  refine .intro (fun t h => ?_) fun _ _ _ => trivial
  cases hs.ctV.symm.trans (puttermBody_notReady h).2

theorem compressSteps_ready (hd : s.dir = .closed) : (compressSteps s).Ready (·.dir = .closed) :=
  (freqBody_ready hd).bind fun _ _ h => (buildBody_ready h).bind fun _ _ h => (codesBody_ready h).bind fun _ _ h =>
    (openwBody_ready h.1 h.2).bind fun _ _ h => (sertreeBody_ready h).bind fun _ _ h => (srcRewind_ready h).bind fun _ _ h =>
    (encodeLoop_ready _ h).bind fun _ _ h => (puttermBody_ready h).bind fun _ t _ => (closeBody_endsIn t).ready (by decide)

/-- A `COMPRESS` that finds the channel closed does not end in `NotReady` (R189, R219). -/
theorem compressBody_ready (hd : s.dir = .closed) : (compressBody s).Ready fun _ => True :=
  ((macroReady_endsIn hd).ready (by decide)).bind fun _ _ h => (compressSteps_ready h).finally

/-! ## What `DECOMPRESS` has when it comes to each test -/

theorem openrBody_ready (hd : s.dir = .closed) : (openrBody s).Ready (·.dir = .read) :=
  .intro (fun _ h => (openrBody_notReady h).2 hd) fun _ _ => (openrBody_endsIn s).of_eq_ok

theorem parseEnd_treeV {p : HeaderParse} {n : NodeIx} (h : parseEnd p n s = .ok () t) : t.treeV = true := by
  unfold parseEnd at h
  split at h <;> cases h
  rfl

theorem destreeBody_ready (hd : s.dir = .read) : (destreeBody s).Ready (·.treeV = true) := by
  refine .intro (fun _ => (destreeBody_endsIn hd).ne_raise (by decide)) fun _ t h => ?_
  rw [destreeBody, if_neg (not_not_intro hd)] at h
  obtain ⟨q, u, -, hend⟩ := Res.bind_eq_ok.mp h
  exact parseEnd_treeV hend

theorem getsymBody_frame (s : State) : (getsymBody s).All (ReadFrame s) := by
  unfold getsymBody
  split
  · exact ReadFrame.refl s
  · split
    · exact ReadFrame.refl s
    · cases s.root with
      | none => trivial
      | some r => exact getWalk_frame maxFrames r s

theorem getsymBody_ready (hv : s.treeV = true) : (getsymBody s).Ready (·.treeV = true) := by
  refine .intro (fun _ h => ?_) fun _ t h => ?_
  · cases hv.symm.trans (getsymBody_notReady h).2
  · have hf : ReadFrame s t := (getsymBody_frame s).of_eq_ok h
    obtain ⟨-, ⟨-, htree, -⟩, -⟩ := hf.keeps
    exact htree.trans hv

theorem snkPush_ready (b : Byte) (hv : s.treeV = true) : (snkPush b s).Ready (·.treeV = true) := by
  refine .intro (fun _ => (snkPush_endsIn b rfl).ne_raise (by decide)) fun _ t h => ?_
  have hf : WriteFrame s t := (snkPush_frame b s).of_eq_ok h
  obtain ⟨-, ⟨-, htree, -⟩, -⟩ := hf.keeps
  exact htree.trans hv

theorem decodeLoop_ready (n : Nat) (hv : s.treeV = true) : (decodeLoop n s).Ready fun _ => True := by
  induction n generalizing s with
  | zero => trivial
  | succ n ih =>
    refine (getsymBody_ready hv).bind fun x t ht => ?_
    split
    · trivial
    · exact (snkPush_ready _ ht).bind fun _ _ hu => ih hu

/-- A `DECOMPRESS` that finds the channel closed does not end in `NotReady` (R203, R219). -/
theorem decompressBody_ready (hd : s.dir = .closed) : (decompressBody s).Ready fun _ => True :=
  ((macroReady_endsIn hd).ready (by decide)).bind fun _ _ h => ((openrBody_ready h).bind fun _ _ h =>
    (destreeBody_ready h).bind fun _ _ h => (decodeLoop_ready _ h).bind fun _ t _ =>
    (closeBody_endsIn t).ready (by decide)).finally

end

end Sys2Proof.Machine
end

section
/-! PROOF. `NotReady` over all commands (60_exceptions.md R219): its causes, and that it leaves everything else alone. -/

namespace Sys2Proof.Machine

section
variable {s t : State}

/-- The commands whose row of R216 has no `NotReady`. -/
theorem commandBody?_ne_notReady {i : Instr} {body : State → Res Sym} (hb : commandBody? i = some body)
    (hd : ∀ n, neededDir i = some n → s.dir = n) (hf : Failure.notReady ∉ canFail i) : body s ≠ .raise .notReady t := by
  obtain ⟨d, hends⟩ := commandBody?_endsIn hb hd
  exact hends.ne_raise fun hmem => hf (List.mem_of_mem_filter hmem)

/-- With the direction it asks for, a command's body that raises `NotReady` has changed nothing (R219). -/
theorem eq_of_notReady_of_needed_dir : ∀ {i : Instr} {body : State → Res Sym}, commandBody? i = some body →
    (∀ n, neededDir i = some n → s.dir = n) → body s = .raise .notReady t → t = s
  | .openr, _, rfl, _, h => (openrBody_notReady (Res.zero_eq_raise.mp h)).1
  | .openw, _, rfl, _, h => (openwBody_notReady (Res.zero_eq_raise.mp h)).1
  | .freq, _, rfl, _, h => (freqBody_notReady (Res.zero_eq_raise.mp h)).1
  | .build, _, rfl, _, h => (buildBody_notReady (Res.zero_eq_raise.mp h)).1
  | .codes, _, rfl, _, h => (codesBody_notReady (Res.zero_eq_raise.mp h)).1
  | .sertree, _, rfl, _, h => (sertreeBody_notReady (Res.zero_eq_raise.mp h)).1
  | .putsym _, _, rfl, _, h => (putsymBody_notReady (Res.zero_eq_raise.mp h)).1
  | .putterm, _, rfl, _, h => (puttermBody_notReady (Res.zero_eq_raise.mp h)).1
  | .getsym, _, rfl, _, h => (getsymBody_notReady h).1
  | .compress, _, rfl, hd, h => absurd (Res.zero_eq_raise.mp h) (compressBody_ready (hd _ rfl)).ne_raise
  | .decompress, _, rfl, hd, h => absurd (Res.zero_eq_raise.mp h) (decompressBody_ready (hd _ rfl)).ne_raise
  | .rdbit, _, hb, hd, h => absurd h (commandBody?_ne_notReady hb hd (by simp [canFail]))
  | .rdbyte, _, hb, hd, h => absurd h (commandBody?_ne_notReady hb hd (by simp [canFail]))
  | .wrbit _, _, hb, hd, h => absurd h (commandBody?_ne_notReady hb hd (by simp [canFail]))
  | .wrbyte _, _, hb, hd, h => absurd h (commandBody?_ne_notReady hb hd (by simp [canFail]))
  | .close, _, hb, hd, h => absurd h (commandBody?_ne_notReady hb hd (by simp [canFail]))
  | .destree, _, hb, hd, h => absurd h (commandBody?_ne_notReady hb hd (by simp [canFail]))

/-- A command's body that raises `NotReady` has changed nothing (R219). -/
theorem commandBody?_eq_of_notReady {i : Instr} {body : State → Res Sym} (hb : commandBody? i = some body)
    (h : body s = .raise .notReady t) : t = s := by
  by_cases hd : ∀ n, neededDir i = some n → s.dir = n
  case pos => exact eq_of_notReady_of_needed_dir hb hd h
  case neg =>
    push Not at hd
    obtain ⟨n, hn, hne⟩ := hd
    exact (Res.raise.inj ((commandBody?_of_wrong_dir hb hn hne).symm.trans h)).2.symm

/-- A command that ends with `NotReady` is the entry of that failure and nothing else (R219). -/
theorem exec_eq_endFail_of_notReady {i : Instr} (hi : i.isCommand = true) (h : exec i s = .next t)
    (hf : t.status = .failed .notReady) : t = endFail .notReady s := by
  obtain ⟨body, hb, ⟨v, u, -, -, rfl⟩ | ⟨f, u, hbody, -, rfl⟩⟩ := exec_eq_next hi h
  · cases hf
  · cases hf
    rw [commandBody?_eq_of_notReady hb hbody]

theorem buildBody_of_no_counts (hv : s.ftV = false) : buildBody s = .raise .notReady s := if_pos hv

theorem putsymBody_of_no_code {v : Byte} {e : CodeEntry} (hd : s.dir = .write)
    (he : s.ct[v.toNat]? = some (some e)) (hev : e.v = false) : putsymBody v s = .raise .notReady s := by
  cases hv : s.ctV with
  | false => exact putsymBody_of_no_table hd hv
  | true => rw [putsymBody_of_entry hd hv he, hev, if_neg Bool.false_ne_true]

end

/-- Settles O15: each cause is a test at the beginning of its command; and a command that ends with `NotReady` ends at such
a test, since inside `COMPRESS` and `DECOMPRESS` every test is met. -/
theorem notReadyChangesNothingElse : Obligations.NotReadyChangesNothingElse := by
  unfold Obligations.NotReadyChangesNothingElse
  refine ⟨fun i s h => ⟨endFail .notReady s, ?_, endFail_onlyFails _ s⟩, fun i s t hi h hf => ?_⟩
  · rcases h with ⟨rfl, hv⟩ | ⟨rfl, hv⟩ | ⟨rfl, hd, hv⟩ | ⟨rfl, hd, hv⟩ | ⟨rfl, hd, hv⟩ |
      ⟨v, rfl, hd, hv | ⟨e, he, hev⟩⟩ | ⟨hi, hd⟩ | ⟨rfl, hd⟩
    · exact finishUnit_of_eq_raise (buildBody_of_no_counts hv)
    · exact finishUnit_of_eq_raise (codesBody_of_no_tree hv)
    · exact finishUnit_of_eq_raise (sertreeBody_of_no_tree hd hv)
    · exact exec_getsym_of_raise (getsymBody_of_no_tree hd hv)
    · exact finishUnit_of_eq_raise (puttermBody_of_no_table hd hv)
    · exact finishUnit_of_eq_raise (putsymBody_of_no_table hd hv)
    · exact finishUnit_of_eq_raise (putsymBody_of_no_code hd he hev)
    · exact exec_of_wrong_dir (n := .closed) (by rcases hi with rfl | rfl | rfl | rfl <;> rfl) hd
    · exact exec_of_dirFailure (hd ▸ rfl)
  · rw [exec_eq_endFail_of_notReady hi h hf]
    exact endFail_onlyFails _ s

end Sys2Proof.Machine
end

section
/-! PROOF. The decoder and the encoder (30_encoding.md R80 to R82, R86, R87, R91): a word is its two fields, and the bits a
token is read off are its own, whatever follows them. -/

namespace Sys2Proof

/-! ## Command words -/

theorem opField_cmdWord (op arg : Byte) : opField (cmdWord op arg) = op := BitVec.extractLsb'_append_eq_left

theorem argField_cmdWord (op arg : Byte) : argField (cmdWord op arg) = arg := BitVec.extractLsb'_append_eq_right

theorem cmdWord_fields (w : Word) : cmdWord (opField w) (argField w) = w := by
  apply BitVec.eq_of_toNat_eq
  rw [cmdWord, BitVec.toNat_append, ← Nat.shiftLeft_add_eq_or_of_lt (argField w).isLt, opField_toNat, argField_toNat,
    Nat.shiftLeft_eq]
  omega

theorem eq_cmdWord {w : Word} {op : Byte} (h : (opField w).toNat = op.toNat) : w = cmdWord op (argField w) := by
  rw [← BitVec.eq_of_toNat_eq h, cmdWord_fields]

theorem noOperand_eq_ok {arg : Byte} {i j : Instr} (h : noOperand arg i = .ok j) : arg = 0 ∧ i = j := by
  unfold noOperand at h
  split at h
  · exact ⟨‹_›, by simpa using h⟩
  · simp at h

/-- The operand of `WRBIT` is 0 or 1, and is the bit (R82). -/
theorem bitOperand_eq_ok {arg : Byte} {j : Instr} (h : bitOperand arg = .ok j) :
    ∃ b : Bool, arg = (if b then 1 else 0) ∧ j = .wrbit b := by
  have hle : arg.toNat ≤ 1 := (bitOperand_accepts_iff arg).mp ⟨j, h⟩
  have harg : arg = if arg.getLsbD 0 then 1 else 0 := by
    rcases Nat.le_one_iff_eq_zero_or_eq_one.mp hle with h0 | h1
    · rw [BitVec.eq_of_toNat_eq (y := 0#8) h0]; rfl
    · rw [BitVec.eq_of_toNat_eq (y := 1#8) h1]; rfl
  refine ⟨arg.getLsbD 0, harg, ?_⟩
  unfold bitOperand at h
  split at h
  · simpa using h.symm
  · simp at h

/-- A word that decodes to an instruction is the one the encoder writes for it (R80 to R82). -/
theorem encode_of_decodeWord {w : Word} {i : Instr} (h : decodeWord w = .ok i) : encode i = .word w := by
  have plain {op : Byte} {j : Instr} (hop : (opField w).toNat = op.toNat) (hj : encode j = .word (cmdWord op 0))
      (hd : noOperand (argField w) j = .ok i) : encode i = .word w := by
    obtain ⟨harg, rfl⟩ := noOperand_eq_ok hd
    rw [hj, eq_cmdWord hop, harg]
  unfold decodeWord at h
  dsimp only at h
  split at h
  case h_5 hop =>
    obtain ⟨b, harg, rfl⟩ := bitOperand_eq_ok h
    rw [eq_cmdWord (op := 0x05) hop, harg]; rfl
  case h_6 hop => cases h; rw [eq_cmdWord (op := 0x06) (w := w) hop, argField_cmdWord]; rfl
  case h_13 hop => cases h; rw [eq_cmdWord (op := 0x18) (w := w) hop, argField_cmdWord]; rfl
  case h_18 => simp at h
  all_goals exact plain (op := BitVec.ofNat 8 _) ‹_› rfl h

/-- The word of a command decodes to the command (R81, R82). -/
theorem decodeWord_of_encode {i : Instr} {w : Word} (h : encode i = .word w) : decodeWord w = .ok i := by
  cases i with
  | wrbit b => cases h; cases b <;> rfl
  | wrbyte v => cases h; simp [decodeWord, opField_cmdWord, argField_cmdWord]
  | putsym v => cases h; simp [decodeWord, opField_cmdWord, argField_cmdWord]
  | int | leafb | leaft => simp [encode] at h
  | _ => cases h; rfl

/-! ## Header tokens -/

theorem byteBits_bitsByte (b7 b6 b5 b4 b3 b2 b1 b0 : Bool) :
    byteBits (bitsByte b7 b6 b5 b4 b3 b2 b1 b0) = [b7, b6, b5, b4, b3, b2, b1, b0] := by
  revert b7 b6 b5 b4 b3 b2 b1 b0; decide

theorem bitsByte_byteBits (v : Byte) : bitsByte (v.getLsbD 7) (v.getLsbD 6) (v.getLsbD 5) (v.getLsbD 4) (v.getLsbD 3)
    (v.getLsbD 2) (v.getLsbD 1) (v.getLsbD 0) = v :=
  Machine.byteBits_injective (byteBits_bitsByte ..)

theorem decodeToken_bits_append (t : Token) (l : List Bool) : decodeToken (t.bits ++ l) = .ok (t, l) := by
  cases t with
  | int => rfl
  | leaft => rfl
  | leafb b => exact congrArg (fun v => Except.ok (Token.leafb v, l)) (bitsByte_byteBits b)

/-- A token is read off a list of bits exactly when they begin with its own (R86, R91). -/
theorem decodeToken_eq_ok_iff {l r : List Bool} {t : Token} : decodeToken l = .ok (t, r) ↔ l = t.bits ++ r := by
  refine ⟨fun h => ?_, fun h => h ▸ decodeToken_bits_append t r⟩
  unfold decodeToken at h
  split at h
  · cases h; rfl
  · cases h; rfl
  · cases h; simp [Token.bits, byteBits_bitsByte]
  · simp at h

/-- Bits are an instruction exactly when they are a token's, and then the token is the instruction. -/
theorem decode_bits_eq_ok_iff {l : List Bool} {i : Instr} :
    decode (.bits l) = .ok i ↔ ∃ t : Token, l = t.bits ∧ i = t.instr := by
  constructor
  · intro h
    cases ht : decodeToken l with
    | error e => simp [decode, ht] at h
    | ok p =>
      obtain ⟨t, r⟩ := p
      cases r with
      | cons b r => simp [decode, ht] at h
      | nil =>
        simp only [decode, ht, Except.ok.injEq] at h
        exact ⟨t, by simpa using decodeToken_eq_ok_iff.mp ht, h.symm⟩
  · rintro ⟨t, rfl, rfl⟩
    have ht : decodeToken t.bits = .ok (t, []) := decodeToken_eq_ok_iff.mpr (by simp)
    simp [decode, ht]

theorem decode_word_eq_ok_iff {w : Word} {i : Instr} : decode (.word w) = .ok i ↔ decodeWord w = .ok i := by
  cases h : decodeWord w <;> simp [decode, h]

theorem encode_token (t : Token) : encode t.instr = .bits t.bits := by cases t <;> rfl

theorem exists_token_of_encode {i : Instr} {l : List Bool} (h : encode i = .bits l) : ∃ t : Token, l = t.bits ∧ i = t.instr := by
  cases i with
  | int => cases h; exact ⟨.int, rfl, rfl⟩
  | leafb b => cases h; exact ⟨.leafb b, rfl, rfl⟩
  | leaft => cases h; exact ⟨.leaft, rfl, rfl⟩
  | _ => simp [encode] at h

/-- Settles O1: a word and its two fields determine each other, a token and its bits do, and an instruction is one or the
other. -/
theorem decodeAndEncodeAgree : Obligations.DecodeAndEncodeAgree := by
  refine ⟨fun i => ?_, fun e i h => ?_⟩
  · cases he : encode i with
    | word w => exact decode_word_eq_ok_iff.mpr (decodeWord_of_encode he)
    | bits l => exact decode_bits_eq_ok_iff.mpr (exists_token_of_encode he)
  · cases e with
    | word w => exact encode_of_decodeWord (decode_word_eq_ok_iff.mp h)
    | bits l =>
      obtain ⟨t, rfl, rfl⟩ := decode_bits_eq_ok_iff.mp h
      exact encode_token t

/-- Settles O3: each is the decoder run on one word or token. -/
theorem sampleEncodingsDecode : Obligations.SampleEncodingsDecode :=
  ⟨rfl, rfl, rfl, rfl, rfl, rfl, rfl, rfl, rfl, rfl⟩

/-- Settles O4, token by token. -/
theorem headerTokensDelimitThemselves : Obligations.HeaderTokensDelimitThemselves := decodeToken_bits_append

end Sys2Proof
end

section
/-! PROOF. Bits packed into bytes (00_scope.md R12, 20_memory.md R63). -/

namespace Sys2Proof.Machine

/-- A byte made of the first eight bits of a list, with zeros where the list ends (R63). -/
theorem byteBits_bitsByte_getD (l : List Bool) :
    byteBits (bitsByte (l.getD 0 false) (l.getD 1 false) (l.getD 2 false) (l.getD 3 false) (l.getD 4 false)
      (l.getD 5 false) (l.getD 6 false) (l.getD 7 false)) = l.take 8 ++ List.replicate (8 - l.length) false := by
  rw [byteBits_bitsByte]
  show (List.range 8).map (l.getD · false) = _
  apply List.ext_getElem
  · simp only [List.length_map, List.length_range, List.length_append, List.length_take, List.length_replicate]
    omega
  · intro i hi _
    have hi : i < 8 := by simpa using hi
    rcases Nat.lt_or_ge i l.length with h | h
    · rw [List.getElem_append_left (by simp; omega)]
      simp [h]
    · rw [List.getElem_append_right (by simp; omega)]
      simp [h]

theorem packBits_nil (fuel : Nat) : packBits fuel [] = [] := by cases fuel <;> rfl

theorem packBits_spec {fuel : Nat} {l : List Bool} (hl : l.length ≤ fuel) :
    ∃ n, n < 8 ∧ streamBits (packBits fuel l) = l ++ List.replicate n false ∧
      (packBits fuel l).length = (l.length + 7) / 8 := by
  induction fuel generalizing l with
  | zero => obtain rfl := List.eq_nil_of_length_eq_zero (by omega : l.length = 0); exact ⟨0, by simp [packBits]⟩
  | succ fuel ih =>
    cases l with
    | nil => exact ⟨0, by simp [packBits]⟩
    | cons b r =>
      rw [packBits, streamBits_cons, byteBits_bitsByte_getD, List.length_cons (as := packBits fuel _)]
      · rcases Nat.lt_or_ge (b :: r).length 8 with h8 | h8
        · rw [List.drop_eq_nil_of_le h8.le, packBits_nil, List.take_of_length_le h8.le, streamBits_nil, List.append_nil]
          exact ⟨_, by simp; omega, rfl, by simp at h8 ⊢; omega⟩
        · obtain ⟨n, hn, hbits, hlen⟩ := ih (l := (b :: r).drop 8) (by simp at hl ⊢; omega)
          rw [List.length_drop] at hlen
          rw [hbits, hlen, Nat.sub_eq_zero_of_le h8, List.replicate_zero, List.append_nil, ← List.append_assoc,
            List.take_append_drop]
          exact ⟨n, hn, rfl, by omega⟩
      · simp

theorem streamBits_injective {l m : List Byte} (h : streamBits l = streamBits m) : l = m :=
  (prefix_of_streamBits_prefix (h ▸ List.prefix_refl _)).eq_of_length (by
    have := congrArg List.length h
    simp only [length_streamBits] at this
    omega)

theorem pack_spec (l : List Bool) :
    ∃ n, n < 8 ∧ streamBits (pack l) = l ++ List.replicate n false ∧ (pack l).length = (l.length + 7) / 8 :=
  packBits_spec le_rfl

/-- Bits filled up with fewer than eight zeros to whole bytes are those of the packed bytes (R63). -/
theorem eq_pack {l : List Bool} {d : List Byte} {n : Nat} (hn : n < 8) (hd : streamBits d = l ++ List.replicate n false) :
    d = pack l := by
  obtain ⟨m, hm, hp, -⟩ := pack_spec l
  have hnm : n = m := by
    have hd := congrArg List.length hd
    have hp := congrArg List.length hp
    simp only [length_streamBits, List.length_append, List.length_replicate] at hd hp
    omega
  exact streamBits_injective (by rw [hd, hp, hnm])

/-- Settles O6, byte by byte: each takes eight bits, and the last is filled up. -/
theorem packingPadsWithZeros : Obligations.PackingPadsWithZeros := pack_spec

end Sys2Proof.Machine
end

section
/-! PROOF. What a step runs (00_scope.md R7; 10_state.md R43; 30_encoding.md R86), and the state after reset
(70_reset_and_hazards.md R250, R251). -/

namespace Sys2Proof.Machine

/-- Settles O8: a step with a word presented is `runCommand`, and with nothing presented `commandStep` waits. -/
theorem stepRunsThePresentedCommand : Obligations.StepRunsThePresentedCommand := by
  refine ⟨fun s w l i hh hi hw => ?_, fun s hh hi => ?_⟩
  · rw [step_eq_hostAct hh hi, hostAct, runCommand, hw]
  · rw [step, hh, commandStep, hi]

theorem Source.legal_iff {cfg : Config} {r : Source} :
    r.legal cfg = true ↔ r.data.length < 2 ^ cfg.cw ∧ ∀ e, r.errAt = some e → e ≤ r.data.length := by
  cases he : r.errAt <;> simp [Source.legal, he]

/-- Settles O11: each move of the host is one update of the state, and a bind first looks at the source. -/
theorem hostMovesBetweenCommands : Obligations.HostMovesBetweenCommands := by
  refine ⟨fun s r l hh hi => ⟨fun hr => ?_, fun hr => ?_⟩, fun s k l hh hi => step_eq_hostAct hh hi, fun s l hh hi => ?_⟩
  · rw [step_eq_hostAct hh hi, hostAct]
    exact if_pos (Source.legal_iff.mpr hr)
  · rw [step_eq_hostAct hh hi, hostAct]
    exact if_neg (mt Source.legal_iff.mp hr)
  · refine ⟨_, step_eq_hostAct hh hi, rfl, rfl, rfl, rfl, ?_, ?_, ?_⟩ <;> intro i hi <;> exact Vector.getElem_replicate hi

theorem exec_token (t : Token) (s : State) : exec t.instr s = runToken t s := by cases t <;> rfl

theorem exists_token_of_not_command {i : Instr} (h : i.isCommand = false) : ∃ t : Token, i = t.instr := by
  cases i with
  | int => exact ⟨.int, rfl⟩
  | leafb b => exact ⟨.leafb b, rfl⟩
  | leaft => exact ⟨.leaft, rfl⟩
  | _ => simp [Instr.isCommand, Instr.token?] at h

/-- Settles O42: an instruction that is no command is a token, and a token looks first whether a header is being parsed. -/
theorem tokensOutsideAHeaderAreRefused : Obligations.TokensOutsideAHeaderAreRefused := by
  intro s i hi hh
  obtain ⟨t, rfl⟩ := exists_token_of_not_command hi
  rw [exec_token, runToken, hh]

/-- Settles O57: after reset the channel is closed and empty, nothing has failed, no source is bound, and no flag is set. -/
theorem resetMeetsTheInvariants : Obligations.ResetMeetsTheInvariants :=
  ⟨⟨fun _ => ⟨rfl, rfl⟩, nofun, nofun⟩, ⟨rfl, nofun⟩, ⟨rfl, Nat.two_pow_pos 64⟩, nofun, nofun, nofun, rfl⟩

end Sys2Proof.Machine
end

section
/-! PROOF. The table of the failures a command can end with (60_exceptions.md R216). -/

namespace Sys2Proof.Machine

/-- The failures of the direction table are among those of the failure table (R124, R216). -/
theorem mem_canFail_of_dirFailure {i : Instr} {d : Dir} {f : Failure} (hi : i.isCommand = true)
    (h : dirFailure i d = some f) : f ∈ canFail i := by
  rcases dirFailure_eq_some_iff.mp h with ⟨n, hn, -, rfl⟩ | ⟨rfl, -, rfl⟩
  · cases i with
    | close | freq | build | codes | int | leafb | leaft => simp [neededDir] at hn
    | _ => cases hn; simp [wrongDir, canFail]
  · simp [canFail]

/-- Settles O14: a command fails at the test of its direction, or with one of the failures of the operations it runs. -/
theorem commandsFailOnlyAsTheTableSays : Obligations.CommandsFailOnlyAsTheTableSays := by
  intro i s t f hi h hf
  cases hd : dirFailure i s.dir with
  | none => exact (failure_of_dirFailure_eq_none hi hd h hf).1
  | some g =>
    obtain rfl : endFail g s = t := Host.Outcome.next.inj ((exec_of_dirFailure hd).symm.trans h)
    obtain rfl : g = f := Status.failed.inj hf
    exact mem_canFail_of_dirFailure hi hd

end Sys2Proof.Machine
end

section
/-! PROOF. Trees in numbers (00_scope.md R10; 20_memory.md R74), and codes none of which begins another (10_state.md R36;
43_codetable.md R157). -/

namespace Sys2Proof.Machine

/-! ## Sizes -/

theorem Tree.leaves_length_pos (tree : Tree) : 0 < tree.leaves.length := by
  induction tree with
  | leaf x => simp [Tree.leaves]
  | node l r ihl ihr => simp only [Tree.leaves, List.length_append]; omega

theorem Tree.size_add_one (tree : Tree) : tree.size + 1 = 2 * tree.leaves.length := by
  induction tree with
  | leaf x => rfl
  | node l r ihl ihr => simp only [Tree.size, Tree.leaves, List.length_append]; omega

theorem Tree.depth_lt_leaves (tree : Tree) : tree.depth < tree.leaves.length := by
  induction tree with
  | leaf x => exact Nat.one_pos
  | node l r ihl ihr =>
    have := l.leaves_length_pos
    have := r.leaves_length_pos
    simp only [Tree.depth, Tree.leaves, List.length_append]
    omega

/-- Distinct symbols are at most 257 (R9). -/
theorem length_le_of_nodup {l : List Sym} (h : l.Nodup) : l.length ≤ 257 := by
  simpa using h.length_le_card

/-- Settles O35: the counts are inductions on the tree, and there are 257 symbols. -/
theorem treeAndHeaderSizes : Obligations.TreeAndHeaderSizes := by
  intro tree hwf
  have hpos := tree.leaves_length_pos
  have hsize := tree.size_add_one
  have hdepth := tree.depth_lt_leaves
  have hheader := hwf.length_header
  have hmax := length_le_of_nodup hwf.1
  exact ⟨hmax, by omega, by omega, fun _ => hheader, fun h1 => by omega, by omega⟩

/-! ## No code begins another -/

/-- Of two symbols that have a code, neither code begins the other: they part at a node (R36). -/
theorem Tree.eq_of_code_prefix {tree : Tree} {x y : Sym} {c d : List Bool} (hc : tree.code? x = some c)
    (hd : tree.code? y = some d) (h : c <+: d) : x = y := by
  induction tree generalizing c d with
  | leaf z =>
    simp only [Tree.code?, Option.ite_none_right_eq_some] at hc hd
    exact hc.1.trans hd.1.symm
  | node l r ihl ihr =>
    obtain ⟨b, p, rfl, hp⟩ := Tree.code?_branch hc
    obtain ⟨b', q, rfl, hq⟩ := Tree.code?_branch hd
    obtain ⟨rfl, hpq⟩ := List.cons_prefix_cons.mp h
    cases b
    · exact ihl hp hq hpq
    · exact ihr hp hq hpq

theorem Tree.code_ne_nil {tree : Tree} (h : tree.size ≠ 1) {x : Sym} {c : List Bool} (hc : tree.code? x = some c) :
    c ≠ [] := by
  cases tree with
  | leaf z => exact absurd rfl h
  | node l r => obtain ⟨b, q, rfl, -⟩ := Tree.code?_branch hc; simp

theorem Tree.entry_eq_some {tree : Tree} {x : Sym} (h : (tree.entry x).v = true) :
    tree.code? x = some (tree.entry x).code := by
  unfold Tree.entry at h ⊢
  cases hc : tree.code? x <;> simp_all

/-- Settles O34: the table holds the tree's codes, and those have the property. -/
theorem noCodeIsAPrefixOfAnother : Obligations.NoCodeIsAPrefixOfAnother := by
  intro s t tree hs hv htree hnd h x y ex ey hx hy hex hey
  obtain ⟨t', h', -, hcodes, -⟩ := (codesRecordsThePaths s).2 tree hs hv htree hnd
  obtain rfl : t' = t := Host.Outcome.next.inj (h'.symm.trans h)
  have entry {z : Sym} {e : CodeEntry} (hz : t'.ct[z.val]? = some (some e)) : e = tree.entry z := by
    rw [Vector.getElem?_eq_getElem z.isLt, hcodes z] at hz
    simpa using hz.symm
  obtain rfl := entry hx
  obtain rfl := entry hy
  exact ⟨fun hne hpre => hne (Tree.eq_of_code_prefix (Tree.entry_eq_some hex) (Tree.entry_eq_some hey) hpre),
    fun hsize => Tree.code_ne_nil hsize (Tree.entry_eq_some hex)⟩

end Sys2Proof.Machine
end

section
/-! PROOF. A read position past the end of a rebound source (20_memory.md R52; 40_bitchannel.md R111). -/

namespace Sys2Proof.Machine

/-- Settles O21: a pull past the end answers the end, and reading moves no position there. -/
theorem pastTheEndReadsAsTheEnd : Obligations.PastTheEndReadsAsTheEnd := by
  intro s hd hs hp
  refine ⟨fun hc => ?_, fun hc => ?_, fun tree hs' hv htree hnd hno => ?_⟩
  · exact ⟨_, exec_rdbit_of_raise (readBit_at_end hd hc hp hs.le), endFail_onlyFails _ s⟩
  · exact rdbyte_fails hd hc (readBit_at_end (s := s.withBuf s.buf ⟨0, by decide⟩) hd rfl hp hs.le)
  · obtain ⟨t, hr, hreads, hcnt⟩ := getsymBody_of_no_code hd hv htree hnd hno
    have hspos : t.spos = s.spos := hreads.spos.resolve_right fun h => by omega
    have hpt : pullFails t = false := by rw [← hp, pullFails, pullFails, hreads.frame.src_eq, hspos]
    rw [hpt, if_neg Bool.false_ne_true] at hr
    exact ⟨_, exec_getsym_of_raise hr, hreads.frame.body.endsFailed _, hspos, hcnt, hreads.frame.keeps⟩

end Sys2Proof.Machine
end

section
/-! PROOF. A header token read through the channel (30_encoding.md R86, R91; 44_treecodec.md R171, R173): the token the
readable bits begin with, or, where they end inside one, the failure of the pull that comes next. -/

namespace Sys2Proof.Machine

section
variable {s t u : State} {l m : List Bool}

/-! ## Bits taken from a channel -/

/-- The bits `l` were taken from a read channel, whatever else was done: the readable bits and the unread ones begin with
them and go on with those of `t`, and `SPOS` moved, if at all, over bytes the source holds. -/
structure Consumes (l : List Bool) (s t : State) : Prop where
  src : t.src = s.src
  readable : s.readable = l ++ t.readable
  unread : s.unread = l ++ t.unread
  intoError : readsIntoError t = readsIntoError s
  spos : t.spos = s.spos ∨ (s.spos < t.spos ∧ t.spos ≤ s.src.data.length)

theorem Reads.consumes (h : Reads l s t) : Consumes l s t := ⟨h.frame.src_eq, h.readable, h.unread, h.intoError, h.spos⟩

/-- What leaves the source and the channel alone takes no bits. -/
theorem Consumes.of_eq (hsrc : t.src = s.src) (hbuf : t.buf = s.buf) (hcnt : t.cnt = s.cnt) (hspos : t.spos = s.spos) :
    Consumes [] s t where
  src := hsrc
  readable := by simp only [State.readable, readLimit, hsrc, hbuf, hcnt, hspos, List.nil_append]
  unread := by simp only [State.unread, hsrc, hbuf, hcnt, hspos, List.nil_append]
  intoError := by simp only [readsIntoError, hsrc, hspos]
  spos := .inl hspos

theorem Consumes.trans (h : Consumes l s t) (k : Consumes m t u) : Consumes (l ++ m) s u where
  src := k.src.trans h.src
  readable := by rw [h.readable, k.readable, List.append_assoc]
  unread := by rw [h.unread, k.unread, List.append_assoc]
  intoError := k.intoError.trans h.intoError
  spos := by
    have hs := h.spos
    have ks := k.spos
    rw [h.src] at ks
    omega

theorem Consumes.spos_le (h : Consumes l s t) (hs : s.spos ≤ s.src.data.length) : t.spos ≤ t.src.data.length := by
  have hpos := h.spos
  rw [h.src]
  omega

/-! ## Where the readable bits end -/

/-- What `ReadBit()` raises when no readable bit is left (R52, R111). -/
def outOfBits (s : State) : Failure := if pullFails s then .ioError else .endOfStream

/-- Every readable bit was taken, and none is buffered. -/
structure RunsOut (s t : State) : Prop where
  consumes : Consumes s.readable s t
  cnt : t.cnt.val = 0

theorem RunsOut.after (h : Consumes l s t) (k : RunsOut t u) : RunsOut s u :=
  ⟨h.readable ▸ h.trans k.consumes, k.cnt⟩

theorem RunsOut.readable_eq_nil (h : RunsOut s t) : t.readable = [] := List.self_eq_append_right.mp h.consumes.readable

theorem RunsOut.pullFails_eq (h : RunsOut s t) (hs : s.spos ≤ s.src.data.length) : pullFails t = readsIntoError s := by
  rw [pullFails_eq_readsIntoError (pullable_eq_nil_of_readable h.readable_eq_nil) (h.consumes.spos_le hs),
    h.consumes.intoError]

/-- What a parse makes of the end of the bits (R173). -/
theorem RunsOut.onEnd_eq (h : RunsOut s t) (hs : s.spos ≤ s.src.data.length) (f : Failure) :
    (if outOfBits t = .endOfStream then f else outOfBits t) = if readsIntoError s then .ioError else f := by
  rw [← h.pullFails_eq hs, outOfBits]
  cases pullFails t <;> rfl

/-! ## Bits, bytes, tokens -/

theorem readBit_ends' (hd : s.dir = .read) : (∃ b t, readBit s = .ok b t ∧ Reads [b] s t) ∨
    (s.readable = [] ∧ readBit s = .raise (outOfBits s) s ∧ RunsOut s s) := by
  refine (readBit_ends hd).imp_right ?_
  rintro ⟨hnil, hcnt, hr⟩
  exact ⟨hnil, hr, hnil ▸ (Reads.refl s).consumes, hcnt⟩

theorem readBits_ends (n : Nat) (v : Byte) (hd : s.dir = .read) :
    (∃ w t l, l.length = n ∧ readBits n v s = .ok w t ∧ Reads l s t) ∨
    (s.readable.length < n ∧ ∃ t, readBits n v s = .raise (outOfBits t) t ∧ RunsOut s t) := by
  induction n generalizing s v with
  | zero => exact .inl ⟨v, s, [], rfl, rfl, .refl s⟩
  | succ n ih =>
    rcases readBit_ends' hd with ⟨b, t, hb, hreads⟩ | ⟨hnil, hb, hout⟩
    · rcases ih (setBit v n b) (hreads.frame.dir_eq.trans hd) with ⟨w, u, l, hl, hw, hreads'⟩ | ⟨hlt, u, hu, hout⟩
      · exact .inl ⟨w, u, b :: l, by simp [hl], by rw [readBits, hb, Res.bind_ok, hw], hreads.trans hreads'⟩
      · refine .inr ⟨by simpa [hreads.readable] using hlt, u, by rw [readBits, hb, Res.bind_ok, hu], hout.after hreads.consumes⟩
    · exact .inr ⟨by simp [hnil], s, by rw [readBits, hb, Res.bind_raise], hout⟩

theorem bitsVal_byteBits (v : Byte) : bitsVal (byteBits v) = v.toNat := by revert v; decide

theorem readByte_ends (hd : s.dir = .read) : (∃ w t, readByte s = .ok w t ∧ Reads (byteBits w) s t) ∨
    (s.readable.length < 8 ∧ ∃ t, readByte s = .raise (outOfBits t) t ∧ RunsOut s t) := by
  refine (readBits_ends 8 0#8 hd).imp_left ?_
  rintro ⟨w, t, l, hl, hw, hreads⟩
  obtain ⟨m, hm, hum, hwm⟩ := readByte_unread hw
  obtain ⟨rfl, -⟩ := List.append_inj (hreads.unread.symm.trans hum) (hl.trans hm.symm)
  obtain ⟨v, rfl⟩ : ∃ v, l = byteBits v := by
    match l, hl with
    | [b7, b6, b5, b4, b3, b2, b1, b0], _ => exact ⟨_, (byteBits_bitsByte b7 b6 b5 b4 b3 b2 b1 b0).symm⟩
  obtain rfl : w = v := BitVec.eq_of_toNat_eq (hwm.trans (bitsVal_byteBits v))
  exact ⟨w, t, hw, hreads⟩

/-- `readToken` reads the token the readable bits begin with, or takes them all where they begin with none (R86, R91). -/
theorem readToken_ends (hd : s.dir = .read) : (∃ tok t, readToken s = .ok tok t ∧ Reads tok.bits s t) ∨
    ((∀ (tok : Token) (l : List Bool), s.readable ≠ tok.bits ++ l) ∧
      ∃ t, readToken s = .raise (outOfBits t) t ∧ RunsOut s t) := by
  rcases readBit_ends' hd with ⟨f, t, hf, hreads⟩ | ⟨hnil, hf, hout⟩
  case inr =>
    exact .inr ⟨fun tok l h => by cases tok <;> simp [hnil, Token.bits] at h, s, by rw [readToken, hf, Res.bind_raise], hout⟩
  cases f
  case false => exact .inl ⟨.int, t, by rw [readToken, hf]; rfl, hreads⟩
  have hdt := hreads.frame.dir_eq.trans hd
  rcases readBit_ends' hdt with ⟨g, u, hg, hreads'⟩ | ⟨hnil, hg, hout⟩
  case inr =>
    refine .inr ⟨fun tok l h => ?_, t, by rw [readToken, hf]; simp [hg], hout.after hreads.consumes⟩
    rw [hreads.readable, hnil] at h
    cases tok <;> simp [Token.bits] at h
  cases g
  case true => exact .inl ⟨.leaft, u, by rw [readToken, hf]; simp [hg], hreads.trans hreads'⟩
  rcases readByte_ends (hreads'.frame.dir_eq.trans hdt) with ⟨w, v, hw, hreads''⟩ | ⟨hlt, v, hw, hout⟩
  · exact .inl ⟨.leafb w, v, by rw [readToken, hf]; simp [hg, hw], (hreads.trans hreads').trans hreads''⟩
  · refine .inr ⟨fun tok l h => ?_, v, by rw [readToken, hf]; simp [hg, hw], (hout.after hreads'.consumes).after hreads.consumes⟩
    rw [hreads.readable, hreads'.readable] at h
    cases tok <;> simp [Token.bits] at h
    have := congrArg List.length h
    simp at this
    omega

theorem readToken_of_bits {tok : Token} (hd : s.dir = .read) (h : s.readable = tok.bits ++ l) :
    ∃ t, readToken s = .ok tok t ∧ Reads tok.bits s t ∧ t.readable = l := by
  rcases readToken_ends hd with ⟨tok', t, ht, hreads⟩ | ⟨hno, -⟩
  · obtain ⟨rfl, rfl⟩ : tok' = tok ∧ t.readable = l := by
      have := (decodeToken_eq_ok_iff.mpr hreads.readable).symm.trans (decodeToken_eq_ok_iff.mpr h)
      simpa using this
    exact ⟨t, ht, hreads, rfl⟩
  · exact absurd h (hno tok l)

theorem readToken_of_no_bits (hd : s.dir = .read) (h : ∀ (tok : Token) (l : List Bool), s.readable ≠ tok.bits ++ l) :
    ∃ t, readToken s = .raise (outOfBits t) t ∧ RunsOut s t :=
  (readToken_ends hd).elim (fun ⟨tok, _, _, hreads⟩ => absurd hreads.readable (h tok _)) (·.2)

end

/-- A failure that ends a header is recorded and answered as any other (R173, R222). -/
theorem BodyFrame.endsFailed_withHdr {s t : State} (h : BodyFrame s t) (f : Failure) :
    EndsFailed f s (endFail f (t.withHdr none)) := h.endsFailed f

/-- Settles O9: `readToken` takes the token's bits and leaves the rest, or takes every bit and raises what the next pull
gives. -/
theorem stepRunsTheTokenAtTheReadPosition : Obligations.StepRunsTheTokenAtTheReadPosition := by
  intro s p hh hd
  have hstep : step s = headerStep s := by rw [step, hh]
  refine ⟨fun tok l hl => ?_, fun hs hend => ?_⟩
  · obtain ⟨u, hu, hreads, hul⟩ := readToken_of_bits hd hl
    exact ⟨u, hreads.frame, hul, hreads.unread, by rw [hstep, headerStep, hu, Res.onEnd_ok]⟩
  · have hno (tok : Token) (l : List Bool) (h : s.readable = tok.bits ++ l) : False := by
      rw [decodeToken_eq_ok_iff.mpr h] at hend
      simp at hend
    obtain ⟨u, hu, hout⟩ := readToken_of_no_bits hd hno
    have hframe := (readToken_frame s).of_eq_raise hu
    obtain ⟨hdir, hflags, htables, ⟨-, hsrc, -⟩, hsnk⟩ := hframe.keeps
    refine ⟨_, ?_, hframe.body.endsFailed_withHdr _, rfl, hout.readable_eq_nil, hout.cnt, hdir.trans hd, hflags,
      htables, hsrc, hsnk⟩
    rw [hstep, headerStep, hu, Res.onEnd_raise, hout.onEnd_eq hs]
    rfl

end Sys2Proof.Machine
end

section
/-! PROOF. What the parse of a header leaves alone (44_treecodec.md R171): a token reaches the arena and `NCNT` only. -/

namespace Sys2Proof.Machine

/-- Only `NODE` and `NCNT` may differ. -/
def ArenaFrame (s t : State) : Prop := t = { s with node := t.node, ncnt := t.ncnt }

section
variable {s t u : State}

theorem ArenaFrame.refl (s : State) : ArenaFrame s s := rfl

theorem ArenaFrame.trans (h : ArenaFrame s t) (k : ArenaFrame t u) : ArenaFrame s u := by
  unfold ArenaFrame at *
  rw [k, h]

theorem ArenaFrame.body (h : ArenaFrame s t) : BodyFrame s t := by
  rw [h]; exact ((BodyFrame.refl s).withNode t.node).withTree s.root t.ncnt

/-- The rest of the state is as it was, whatever becomes of the parse. -/
theorem ArenaFrame.keeps (h : ArenaFrame s t) (q : Option HeaderParse) : (t.withHdr q).root = s.root ∧
    KeepsChannel s (t.withHdr q) ∧ KeepsFlags s (t.withHdr q) ∧ (t.withHdr q).ft = s.ft ∧ (t.withHdr q).ct = s.ct ∧
    (t.withHdr q).src = s.src ∧ (t.withHdr q).snk = s.snk ∧ (t.withHdr q).spos = s.spos ∧ (t.withHdr q).resp = s.resp ∧
    (t.withHdr q).status = s.status ∧ (t.withHdr q).faults = s.faults ∧ (t.withHdr q).res = s.res := by
  rw [h]
  exact ⟨rfl, ⟨rfl, rfl, rfl⟩, ⟨rfl, rfl, rfl⟩, rfl, rfl, rfl, rfl, rfl, rfl, rfl, rfl, rfl⟩

theorem allocated_frame (s : State) (h : NodeIx) (e : Node) : ArenaFrame s (s.allocated h e) := rfl

theorem withNode_frame (s : State) (a : Vector (Option Node) 513) : ArenaFrame s (s.withNode a) := rfl

theorem alloc_frame (e : Node) (s : State) : (alloc e s).All (ArenaFrame s) := by
  rcases alloc_cases e s with ⟨-, h⟩ | ⟨_, h⟩ <;> rw [h]
  · trivial
  · exact rfl

theorem setLeft_frame (h l : NodeIx) (s : State) : (setLeft h l s).All (ArenaFrame s) := by
  unfold setLeft readNode
  cases s.node[h.val] with
  | none => trivial
  | some e => exact withNode_frame s _

theorem setRight_frame (h r : NodeIx) (s : State) : (setRight h r s).All (ArenaFrame s) := by
  unfold setRight readNode
  cases s.node[h.val] with
  | none => trivial
  | some e => exact withNode_frame s _

theorem returnTree_frame (st : List Frame) (r : NodeIx) (s : State) : (returnTree st r s).All (ArenaFrame s) := by
  induction st generalizing r s with
  | nil => exact ArenaFrame.refl s
  | cons f st ih =>
    cases f with
    | left h => exact (setLeft_frame h r s).bind (fun _ k => k) fun _ _ _ k => k
    | right h => exact (setRight_frame h r s).bind (fun _ k => k) fun _ t _ k => (ih h t).imp fun _ => k.trans

theorem parseToken_frame (tok : Token) (p : HeaderParse) (s : State) : (parseToken tok p s).All (ArenaFrame s) := by
  have int : (parseInt p s).All (ArenaFrame s) := by
    unfold parseInt
    split
    · exact (alloc_frame _ s).bind (fun _ k => k) fun _ _ _ k => k
    · exact ArenaFrame.refl s
  have leaf (x : Sym) : (parseLeaf x p s).All (ArenaFrame s) := by
    unfold parseLeaf
    split
    · exact ArenaFrame.refl s
    · exact (alloc_frame _ s).bind (fun _ k => k) fun n t _ k =>
        (returnTree_frame p.stack n t).bind (fun _ l => k.trans l) fun _ _ _ l => k.trans l
  cases tok with
  | int => exact int
  | leafb b => exact leaf _
  | leaft => exact leaf _

end

end Sys2Proof.Machine
end

section
/-! PROOF. The header tokens as instructions (30_encoding.md R86; 44_treecodec.md R171): what each does to the arena and to
the calls of `des()` that wait. -/

namespace Sys2Proof.Machine

section
variable {s : State} {p : HeaderParse}

theorem exec_token_of_hdr (hh : s.hdr = some p) (tok : Token) : exec tok.instr s = finishToken (parseToken tok p s) := by
  rw [exec_token, runToken, hh]

theorem finishToken_raise (f : Failure) : finishToken (.raise f s) = .next (endFail f (s.withHdr none)) := rfl

theorem finishToken_more : finishToken (.ok (p, none) s) = .next (s.withHdr (some p)) := rfl

theorem parseEnd_of_term (h : TERM ∈ p.seen) (r : NodeIx) : parseEnd p r s = .ok () (s.rooted r) := if_pos h

theorem parseEnd_of_no_term (h : TERM ∉ p.seen) (r : NodeIx) : parseEnd p r s = .raise .corruptHeader s := if_neg h

theorem finishToken_of_term (h : TERM ∈ p.seen) (r : NodeIx) :
    finishToken (.ok (p, some r) s) = .next (endOk 0 ((s.withHdr none).rooted r)) :=
  finishUnit_of_eq_ok (parseEnd_of_term h r)

theorem finishToken_of_no_term (h : TERM ∉ p.seen) (r : NodeIx) :
    finishToken (.ok (p, some r) s) = .next (endFail .corruptHeader (s.withHdr none)) :=
  finishUnit_of_eq_raise (parseEnd_of_no_term h r)

theorem finishToken_of_ok (q : HeaderParse × Option NodeIx) : ∃ t, finishToken (.ok q s) = .next t := by
  obtain ⟨p, _ | r⟩ := q
  · exact ⟨_, finishToken_more⟩
  · by_cases h : TERM ∈ p.seen
    · exact ⟨_, finishToken_of_term h r⟩
    · exact ⟨_, finishToken_of_no_term h r⟩

theorem parseInt_of_lt {n : NodeIx} (h : p.nint.val < 256) (hn : s.ncnt.val = n.val) :
    parseInt p s = .ok ({ p with nint := ⟨p.nint.val + 1, by omega⟩, stack := .left n :: p.stack }, none)
      (s.allocated n (innerNode none none 0)) := by
  rw [parseInt, dif_pos h, alloc_of_ncnt (h := n) (Fin.ext hn), Res.bind_ok]

theorem parseInt_of_full (h : p.nint.val = 256) : parseInt p s = .raise .corruptHeader s := by
  rw [parseInt, dif_neg (by omega)]

theorem parseLeaf_of_seen {x : Sym} (h : x ∈ p.seen) : parseLeaf x p s = .raise .corruptHeader s := if_pos h

theorem parseLeaf_of_new {x : Sym} {n : NodeIx} (h : x ∉ p.seen) (hn : s.ncnt.val = n.val) :
    parseLeaf x p s = (returnTree p.stack n (s.allocated n (leafNode x 0))).bind fun q t =>
      .ok ({ p with seen := x :: p.seen, stack := q.1 }, q.2) t := by
  rw [parseLeaf, if_neg h, alloc_of_ncnt (h := n) (Fin.ext hn), Res.bind_ok]

/-- The node whose child a waiting call of `des()` reads (R171). -/
def Frame.node : Frame → NodeIx
  | .left h  => h
  | .right h => h

/-- A call of `des()` that returns finds the nodes of the calls that wait, and so completes (R171). -/
theorem returnTree_completes {st : List Frame} (c : NodeIx) (hst : ∀ f ∈ st, s.node[f.node.val] ≠ none) :
    ∃ q t, returnTree st c s = .ok q t := by
  induction st generalizing c s with
  | nil => exact ⟨_, s, rfl⟩
  | cons f st ih =>
    obtain ⟨e, he⟩ := Option.ne_none_iff_exists'.mp (hst f (by simp))
    cases f with
    | left h => exact ⟨_, _, by rw [returnTree, setLeft_eq h c s e he, Res.bind_ok]⟩
    | right h =>
      rw [returnTree, setRight_eq h c s e he, Res.bind_ok]
      exact ih h fun g hg => set_some_ne_none s.node h g.node _ (hst g (by simp [hg]))

end

/-- Settles O40: `INT` is its one test and one allocation. -/
theorem intTokenOpensANode : Obligations.IntTokenOpensANode := by
  intro s p hh
  have hexec : exec .int s = finishToken (parseInt p s) := exec_token_of_hdr hh .int
  refine ⟨fun h => ?_, fun n h hn => ?_⟩
  · rw [parseInt_of_full h, finishToken_raise] at hexec
    exact ⟨_, hexec, (BodyFrame.refl s).endsFailed_withHdr _, rfl, ⟨rfl, rfl, rfl⟩, ⟨rfl, rfl, rfl⟩,
      ⟨rfl, ⟨rfl, rfl, rfl⟩, rfl⟩, rfl, rfl, rfl⟩
  · rw [parseInt_of_lt h hn, finishToken_more] at hexec
    exact ⟨_, _, hexec, rfl, rfl, rfl, rfl, rfl, rfl, rfl, ⟨rfl, rfl, rfl⟩, ⟨rfl, rfl, rfl⟩, rfl, rfl, rfl, rfl, rfl, rfl,
      rfl, rfl, rfl⟩

theorem exec_leaf_of_hdr {s : State} {p : HeaderParse} {i : Instr} {x : Sym} (hh : s.hdr = some p)
    (hi : (∃ b, i = .leafb b ∧ x = byteSym b) ∨ (i = .leaft ∧ x = TERM)) : exec i s = finishToken (parseLeaf x p s) := by
  rcases hi with ⟨b, rfl, rfl⟩ | ⟨rfl, rfl⟩
  · exact exec_token_of_hdr hh (.leafb b)
  · exact exec_token_of_hdr hh .leaft

/-- Settles O41: a new leaf is allocated and returned: the calls that wait for a right child are closed by
`returnTree_rights`, and then a left child is linked or the header ends. -/
theorem leafTokensAddALeaf : Obligations.LeafTokensAddALeaf := by
  intro s p i x hh hi
  have hexec := exec_leaf_of_hdr hh hi
  have used {n : NodeIx} {g : NodeIx} (hg : ∃ e, s.node[g.val]? = some (some e)) :
      (s.allocated n (leafNode x 0)).node[g.val] ≠ none := by
    obtain ⟨e, he⟩ := hg
    rw [Vector.getElem?_eq_getElem g.isLt, Option.some.injEq] at he
    exact set_some_ne_none s.node n g _ (by simp [he])
  refine ⟨fun hx => ?_, fun n h rs st e hx hn hst hrs hh' he => ?_, fun n rs hx hn hst hrs => ?_, fun hx hn hst => ?_⟩
  · rw [parseLeaf_of_seen hx, finishToken_raise] at hexec
    exact ⟨_, hexec, (BodyFrame.refl s).endsFailed_withHdr _, rfl, ⟨rfl, rfl, rfl⟩, ⟨rfl, rfl, rfl⟩,
      ⟨rfl, ⟨rfl, rfl, rfl⟩, rfl⟩, rfl, rfl, rfl⟩
  · rw [Vector.getElem?_eq_getElem h.isLt, Option.some.injEq] at he
    rw [parseLeaf_of_new hx hn, hst, returnTree_rights rs _ n _ fun g hg => used (hrs g hg).2, returnTree,
      setLeft_eq h _ _ e he, Res.bind_ok, Res.bind_ok, finishToken_more] at hexec
    exact ⟨_, hexec, rfl, rfl, rfl, (((allocated_frame s n _).trans (withNode_frame _ _)).trans (withNode_frame _ _)).keeps _⟩
  · rw [parseLeaf_of_new hx hn, hst, ← List.append_nil (rs.map _), returnTree_rights rs [] n _ fun g hg => used (hrs g hg).2,
      returnTree, Res.bind_ok] at hexec
    have frame := (allocated_frame s n (leafNode x 0)).trans
      (withNode_frame _ (linkRights n rs (s.allocated n (leafNode x 0)).node))
    have hncnt : ((s.allocated n (leafNode x 0)).withNode (linkRights n rs (s.allocated n (leafNode x 0)).node)).ncnt.val =
      n.val + 1 := rfl
    have hnode := State.withNode_node (s.allocated n (leafNode x 0)) (linkRights n rs (s.allocated n (leafNode x 0)).node)
    generalize (s.allocated n (leafNode x 0)).withNode _ = u at hexec frame hncnt hnode
    obtain ⟨hroot, hchan, ⟨hftV, htreeV, hctV⟩, hft, hct, hsrc, hsnk, hspos, -⟩ := frame.keeps none
    by_cases hterm : TERM ∈ x :: p.seen
    · rw [finishToken_of_term hterm] at hexec
      have hor : x = TERM ∨ TERM ∈ p.seen := (List.mem_cons.mp hterm).imp_left Eq.symm
      exact ⟨_, hexec, rfl, hnode, hncnt, fun _ => ⟨frame.body.endsOk 0, rfl, rfl⟩,
        fun h1 h2 => absurd hor (by simp [h1, h2]), hchan, hftV, hctV, hft, hct, hsrc, hsnk, hspos⟩
    · rw [finishToken_of_no_term hterm] at hexec
      have hnor : ¬ (x = TERM ∨ TERM ∈ p.seen) := fun h => hterm (List.mem_cons.mpr (h.imp_left Eq.symm))
      exact ⟨_, hexec, rfl, hnode, hncnt, fun h => absurd h hnor,
        fun _ _ => ⟨frame.body.endsFailed_withHdr _, hroot, htreeV⟩, hchan, hftV, hctV, hft, hct, hsrc, hsnk, hspos⟩
  · obtain ⟨q, t, hq⟩ := returnTree_completes (s := s.allocated ⟨s.ncnt.val, hn⟩ (leafNode x 0)) (st := p.stack)
      ⟨s.ncnt.val, hn⟩ fun f hf => used (hst f hf f.node (by cases f <;> simp [Frame.node])).2
    rw [parseLeaf_of_new (n := ⟨s.ncnt.val, hn⟩) hx rfl, hq, Res.bind_ok] at hexec
    exact hexec ▸ finishToken_of_ok _

end Sys2Proof.Machine
end

section
/-! PROOF. Trees in the arena, put together from their parts (10_state.md R30, R32). -/

namespace Sys2Proof.Machine

section
variable {a b : Vector (Option Node) 513} {h l r : NodeIx} {e : Node} {tree tl tr : Tree} {hs hl hr : List NodeIx} {k m n : Nat}

theorem absTree_of_leaf (he : a[h.val] = some e) (hleaf : e.leaf = true) : absTree (n + 1) a h = some (.leaf e.sym, [h]) := by
  simp [absTree, he, hleaf]

theorem absTree_of_node (he : a[h.val] = some e) (hleaf : e.leaf = false) (hel : e.left = some l) (her : e.right = some r)
    (htl : absTree n a l = some (tl, hl)) (htr : absTree n a r = some (tr, hr)) :
    absTree (n + 1) a h = some (.node tl tr, h :: (hl ++ hr)) := by
  simp [absTree, he, hleaf, hel, her, htl, htr]

/-- A tree's nodes alone say what it is, and more frames find the same tree. -/
theorem absTree_congr (htree : absTree n a h = some (tree, hs)) (hab : ∀ k ∈ hs, b[k.val] = a[k.val]) (hnm : n ≤ m) :
    absTree m b h = some (tree, hs) := by
  induction n generalizing m h tree hs with
  | zero => simp [absTree] at htree
  | succ n ih =>
    obtain ⟨m, rfl⟩ := Nat.exists_eq_succ_of_ne_zero (by omega : m ≠ 0)
    obtain ⟨e, he, ⟨hleaf, rfl, rfl⟩ | ⟨hleaf, l, r, tl, hl, tr, hr, hel, her, htl, htr, rfl, rfl⟩⟩ := absTree_cases htree
    · exact absTree_of_leaf ((hab h (by simp)).trans he) hleaf
    · exact absTree_of_node ((hab h (by simp)).trans he) hleaf hel her
        (ih htl (fun k hk => hab k (by simp [hk])) (by omega)) (ih htr (fun k hk => hab k (by simp [hk])) (by omega))

/-- The tree stands at handle `k` and the handles that follow, in pre-order, every weight 0: as a header leaves it (R171). -/
structure Stands (a : Vector (Option Node) 513) (k : Nat) (tree : Tree) (h : NodeIx) (hs : List NodeIx) : Prop where
  abs : absTree (tree.depth + 1) a h = some (tree, hs)
  root : h.val = k
  handles : hs.map (·.val) = List.range' k tree.size
  weights : ∀ g ∈ hs, ∃ e, a[g.val] = some e ∧ e.w = 0

theorem Stands.mem_iff (hst : Stands a k tree h hs) (g : NodeIx) : g ∈ hs ↔ k ≤ g.val ∧ g.val < k + tree.size := by
  have hmap : g ∈ hs ↔ g.val ∈ hs.map (·.val) :=
    ⟨List.mem_map_of_mem, fun hg => by obtain ⟨g', hg', hval⟩ := List.mem_map.mp hg; exact Fin.ext hval ▸ hg'⟩
  rw [hmap, hst.handles, List.mem_range'_1]

theorem Stands.congr (hst : Stands a k tree h hs)
    (hab : ∀ g : NodeIx, k ≤ g.val → g.val < k + tree.size → b[g.val] = a[g.val]) : Stands b k tree h hs where
  abs := absTree_congr hst.abs (fun g hg => (hst.mem_iff g).mp hg |>.elim (hab g)) le_rfl
  root := hst.root
  handles := hst.handles
  weights g hg := ((hst.mem_iff g).mp hg |>.elim (hab g)) ▸ hst.weights g hg

theorem Stands.of_leaf {x : Sym} (he : a[h.val] = some (leafNode x 0)) : Stands a h.val (.leaf x) h [h] where
  abs := absTree_of_leaf he rfl
  root := rfl
  handles := rfl
  weights g hg := by obtain rfl := List.mem_singleton.mp hg; exact ⟨_, he, rfl⟩

theorem Stands.of_node (he : a[h.val] = some (innerNode (some l) (some r) 0)) (hk : h.val = k)
    (hl' : Stands a (k + 1) tl l hl) (hr' : Stands a (k + 1 + tl.size) tr r hr) :
    Stands a k (.node tl tr) h (h :: (hl ++ hr)) where
  abs := absTree_of_node he rfl rfl rfl (absTree_congr hl'.abs (fun _ _ => rfl) (by simp [Tree.depth]))
    (absTree_congr hr'.abs (fun _ _ => rfl) (by simp [Tree.depth]))
  root := hk
  handles := by
    rw [List.map_cons, List.map_append, hl'.handles, hr'.handles, hk, List.range'_append_1]; rfl
  weights g hg := by
    rcases List.mem_cons.mp hg with rfl | hg
    · exact ⟨_, he, rfl⟩
    · exact (List.mem_append.mp hg).elim (hl'.weights g) (hr'.weights g)

end

end Sys2Proof.Machine
end

section
/-! PROOF. The parse of the header of a tree (30_encoding.md R88; 44_treecodec.md R171): it builds the tree in the arena and
returns it to the calls that wait, or it meets the end of the bits. -/

namespace Sys2Proof.Machine

theorem Res.bind_assoc {α β γ : Type} (r : Res α) (f : α → State → Res β) (g : β → State → Res γ) :
    (r.bind f).bind g = r.bind fun a s => (f a s).bind g := by cases r <;> rfl

/-- Only the channel's buffer, `SPOS`, `NODE` and `NCNT` may differ. -/
def ParseFrame (s t : State) : Prop :=
  t = { s with buf := t.buf, cnt := t.cnt, spos := t.spos, node := t.node, ncnt := t.ncnt }

section
variable {s t u : State}

theorem ParseFrame.trans (h : ParseFrame s t) (k : ParseFrame t u) : ParseFrame s u := by
  unfold ParseFrame at *
  rw [k, h]

theorem ReadFrame.parse (h : ReadFrame s t) : ParseFrame s t := by rw [h]; exact rfl

theorem ArenaFrame.parse (h : ArenaFrame s t) : ParseFrame s t := by rw [h]; exact rfl

theorem ParseFrame.dir_eq (h : ParseFrame s t) : t.dir = s.dir := by rw [h]

theorem ArenaFrame.consumes (h : ArenaFrame s t) : Consumes [] s t := by
  rw [h]; exact .of_eq rfl rfl rfl rfl

theorem Consumes.arena {l : List Bool} (h : Consumes l s t) (k : ArenaFrame t u) : Consumes l s u := by
  simpa using h.trans k.consumes

theorem ReadFrame.ncnt_eq (h : ReadFrame s t) : t.ncnt = s.ncnt := by rw [h]

end

/-- How a parse goes on after a token: with the next one, or it is done. -/
def parseNext (n : Nat) (q : HeaderParse × Option NodeIx) (s : State) : Res (HeaderParse × NodeIx) :=
  match q.2 with
  | some r => .ok (q.1, r) s
  | none   => parseLoop n q.1 s

/-- How a parse goes on when a call of `des()` has returned. -/
def parseOn (n : Nat) (p : HeaderParse) (c : List Frame × Option NodeIx) : State → Res (HeaderParse × NodeIx) :=
  parseNext n ({ p with stack := c.1 }, c.2)

section
variable {s t : State} {p : HeaderParse} {n : Nat}

theorem parseToken_leafToken (x : Sym) : parseToken (leafToken x) p s = parseLeaf x p s := by
  unfold leafToken
  by_cases hx : x = TERM
  · rw [if_pos hx, hx]; rfl
  · have hval : x.val < 256 := by
      have : x.val ≠ 256 := fun h => hx (Fin.ext h)
      omega
    have hsym : byteSym (symByte x) = x := Fin.ext (by simp [byteSym, symByte, Nat.mod_eq_of_lt hval])
    rw [if_neg hx, parseToken, hsym]

theorem parseLoop_of_raise {f : Failure} (h : readToken s = .raise f t) : parseLoop (n + 1) p s = .raise f t := by
  rw [parseLoop, h, Res.bind_raise]

theorem parseLoop_of_token {tok : Token} (h : readToken s = .ok tok t) :
    parseLoop (n + 1) p s = (parseToken tok p t).bind (parseNext n) := by
  rw [parseLoop, h, Res.bind_ok]
  rfl

theorem parseLoop_of_int {k : NodeIx} (h : readToken s = .ok .int t) (hint : p.nint.val < 256) (hk : t.ncnt.val = k.val) :
    parseLoop (n + 1) p s =
      parseLoop n { p with nint := ⟨p.nint.val + 1, by omega⟩, stack := .left k :: p.stack }
        (t.allocated k (innerNode none none 0)) := by
  rw [parseLoop_of_token h, parseToken, parseInt_of_lt hint hk, Res.bind_ok]
  rfl

theorem parseLoop_of_leaf {x : Sym} {k : NodeIx} (h : readToken s = .ok (leafToken x) t) (hx : x ∉ p.seen)
    (hk : t.ncnt.val = k.val) :
    parseLoop (n + 1) p s = (returnTree p.stack k (t.allocated k (leafNode x 0))).bind
      (parseOn n { p with seen := x :: p.seen }) := by
  rw [parseLoop_of_token h, parseToken_leafToken, parseLeaf_of_new hx hk, Res.bind_assoc]
  rfl

end

/-- The parse may read a tree's header: it has not seen its symbols, and there is room for its nodes (R89, R174). -/
structure MayParse (tree : Tree) (p : HeaderParse) (s : State) : Prop where
  dir : s.dir = .read
  nodup : tree.leaves.Nodup
  unseen : ∀ x ∈ tree.leaves, x ∉ p.seen
  ints : p.nint.val + tree.leaves.length ≤ 257
  room : s.ncnt.val + tree.size ≤ 513

/-- The parse has read a tree's header: the tree stands in the arena and is about to be returned to the calls that wait. -/
structure Parsed (tree : Tree) (p q : HeaderParse) (r : NodeIx) (hs : List NodeIx) (s t : State) : Prop where
  frame : ParseFrame s t
  consumes : Consumes tree.header s t
  seen : q.seen = tree.leaves.reverse ++ p.seen
  nint : q.nint.val + 1 = p.nint.val + tree.leaves.length
  stands : Stands t.node s.ncnt.val tree r hs
  ncnt : t.ncnt.val = s.ncnt.val + tree.size
  node : ∀ g : NodeIx, g.val < s.ncnt.val → t.node[g.val] = s.node[g.val]

section
variable {s t : State} {p q : HeaderParse} {l r : Tree} {x : Sym} {m : List Bool}

theorem MayParse.left (h : MayParse (.node l r) p s) {p' : HeaderParse} (hseen : p'.seen = p.seen)
    (hint : p'.nint.val = p.nint.val + 1) (hd : t.dir = .read) (hn : t.ncnt.val = s.ncnt.val + 1) : MayParse l p' t := by
  obtain ⟨-, hnd, hun, hi, hr⟩ := h
  simp only [Tree.leaves, Tree.size, List.length_append, List.mem_append, List.nodup_append] at hnd hun hi hr
  have := r.leaves_length_pos
  exact ⟨hd, hnd.1, fun x hx => hseen ▸ hun x (.inl hx), by omega, by omega⟩

theorem MayParse.right (h : MayParse (.node l r) p s) {p' : HeaderParse} (hseen : p'.seen = l.leaves.reverse ++ p.seen)
    (hint : p'.nint.val + 1 = p.nint.val + 1 + l.leaves.length) (hd : t.dir = .read)
    (hn : t.ncnt.val = s.ncnt.val + 1 + l.size) : MayParse r p' t := by
  obtain ⟨-, hnd, hun, hi, hr⟩ := h
  simp only [Tree.leaves, Tree.size, List.length_append, List.mem_append, List.nodup_append] at hnd hun hi hr
  refine ⟨hd, hnd.2.1, fun x hx hmem => ?_, by omega, by omega⟩
  rcases List.mem_append.mp (hseen ▸ hmem) with hxl | hxp
  · exact hnd.2.2 x (List.mem_reverse.mp hxl) x hx rfl
  · exact hun x (.inr hx) hxp

/-- A leaf's token allocates it (R171). -/
theorem Parsed.of_leaf (h : MayParse (.leaf x) p s) (hm : s.readable = (Tree.leaf x).header ++ m) (n : Nat) :
    ∃ k t, parseLoop (n + 1) p s = (returnTree p.stack k t).bind (parseOn n { p with seen := x :: p.seen }) ∧
      Parsed (.leaf x) p { p with seen := x :: p.seen } k [k] s t := by
  rw [Tree.header_leaf] at hm
  obtain ⟨u, hu, hreads, -⟩ := readToken_of_bits h.dir hm
  have hroom : s.ncnt.val < 513 := h.room
  have hncnt : u.ncnt.val = s.ncnt.val := congrArg Fin.val hreads.frame.ncnt_eq
  refine ⟨⟨s.ncnt.val, hroom⟩, _, parseLoop_of_leaf hu (h.unseen x (by simp [Tree.leaves])) hncnt, ?_⟩
  have halloc := allocated_frame u ⟨s.ncnt.val, hroom⟩ (leafNode x 0)
  constructor
  case frame => exact hreads.frame.parse.trans halloc.parse
  case consumes =>
    rw [Tree.header_leaf]
    exact hreads.consumes.arena halloc
  case seen => rfl
  case nint => rfl
  case stands => exact .of_leaf (h := ⟨s.ncnt.val, hroom⟩) (by simp)
  case ncnt => rfl
  case node =>
    intro g hg
    rw [State.allocated_node, Vector.getElem_set_ne _ _ (by simp; omega), hreads.frame.node_eq]

/-- The arena with the node `k` linked to its left child, and then to both (R171). -/
def State.linked (s : State) (k : NodeIx) (l r : Handle) : State :=
  s.withNode (s.node.set k.val (some (innerNode l r 0)) k.isLt)

theorem State.linked_frame (k : NodeIx) (l r : Handle) : ArenaFrame s (s.linked k l r) := rfl

theorem State.linked_node_ne {k g : NodeIx} (l r : Handle) (h : g.val ≠ k.val) : (s.linked k l r).node[g.val] = s.node[g.val] :=
  Vector.getElem_set_ne k.isLt g.isLt (Ne.symm h)

theorem State.linked_node_self {k : NodeIx} (l r : Handle) : (s.linked k l r).node[k.val] = some (innerNode l r 0) :=
  Vector.getElem_set_self _

theorem State.linked_ncnt (k : NodeIx) (l r : Handle) : (s.linked k l r).ncnt = s.ncnt := rfl

theorem returnTree_left {st : List Frame} {k c : NodeIx} (h : s.node[k.val] = some (innerNode none none 0)) :
    returnTree (.left k :: st) c s = .ok (.right k :: st, none) (s.linked k (some c) none) := by
  rw [returnTree, setLeft_eq k c s _ h]; rfl

theorem returnTree_right {st : List Frame} {k l c : NodeIx} (h : s.node[k.val] = some (innerNode (some l) none 0)) :
    returnTree (.right k :: st) c s = returnTree st k (s.linked k (some l) (some c)) := by
  rw [returnTree, setRight_eq k c s _ h]; rfl

/-- An Internal node and its two subtrees, read one after another and linked, are the tree they make. -/
theorem Parsed.of_node {u v w : State} {p₁ q₁ p₂ : HeaderParse} {k kl kr : NodeIx} {hl hr : List NodeIx}
    (hk : k.val = s.ncnt.val) (hreads : Reads Token.int.bits s u)
    (hleft : Parsed l p₁ q₁ kl hl (u.allocated k (innerNode none none 0)) v) (hseen₁ : p₁.seen = p.seen)
    (hint₁ : p₁.nint.val = p.nint.val + 1) (hright : Parsed r p₂ q kr hr (v.linked k (some kl) none) w)
    (hseen₂ : p₂.seen = q₁.seen) (hint₂ : p₂.nint = q₁.nint) :
    Parsed (.node l r) p q k (k :: (hl ++ hr)) s (w.linked k (some kl) (some kr)) := by
  have hncnt₁ : (u.allocated k (innerNode none none 0)).ncnt.val = s.ncnt.val + 1 := hk ▸ rfl
  have hncnt₂ : (v.linked k (some kl) none).ncnt.val = s.ncnt.val + 1 + l.size := hncnt₁ ▸ hleft.ncnt
  have halloc := allocated_frame u k (innerNode none none 0)
  have hlink₁ := State.linked_frame (s := v) k (some kl) none
  have hlink₂ := State.linked_frame (s := w) k (some kl) (some kr)
  constructor
  case frame =>
    exact (((hreads.frame.parse.trans halloc.parse).trans hleft.frame).trans
      (hlink₁.parse.trans hright.frame)).trans hlink₂.parse
  case consumes =>
    rw [Tree.header_node, ← List.append_assoc]
    exact (((hreads.consumes.arena halloc).trans hleft.consumes).arena hlink₁ |>.trans hright.consumes).arena hlink₂
  case seen => rw [hright.seen, hseen₂, hleft.seen, hseen₁, Tree.leaves, List.reverse_append, List.append_assoc]
  case nint =>
    have hi := hright.nint
    have hi₁ := hleft.nint
    rw [hint₂] at hi
    simp only [Tree.leaves, List.length_append]
    omega
  case ncnt =>
    have := hright.ncnt
    rw [State.linked_ncnt, this, hncnt₂, Tree.size]
    omega
  case stands =>
    have hl := hleft.stands
    have hr := hright.stands
    rw [hncnt₁] at hl
    rw [hncnt₂] at hr
    refine .of_node (State.linked_node_self _ _) hk (hl.congr fun g h1 h2 => ?_) (hr.congr fun g h1 h2 => ?_)
    · rw [State.linked_node_ne _ _ (by omega), hright.node g (by omega), State.linked_node_ne _ _ (by omega)]
    · rw [State.linked_node_ne _ _ (by omega)]
  case node =>
    intro g hg
    rw [State.linked_node_ne _ _ (by omega), hright.node g (by omega), State.linked_node_ne _ _ (by omega),
      hleft.node g (by omega), State.allocated_node, Vector.getElem_set_ne _ _ (by omega), hreads.frame.node_eq]

/-- The parse up to the right subtree of an Internal node: the node is allocated and linked to the left one (R171). -/
theorem parseLoop_of_left {k : NodeIx} {u : State} (h : MayParse (.node l r) p s) (hk : k.val = s.ncnt.val)
    (hu : readToken s = .ok .int u) (hreads : Reads Token.int.bits s u) {n : Nat}
    (ihl : ∀ {p : HeaderParse} {s : State}, MayParse l p s → s.readable = l.header ++ m →
      ∃ q k hs t, parseLoop (n + l.size) p s = (returnTree p.stack k t).bind (parseOn n q) ∧ Parsed l p q k hs s t)
    (hm : u.readable = l.header ++ m) :
    ∃ p₁ q₁ kl hl v, parseLoop (n + l.size + 1) p s =
        parseLoop n { q₁ with stack := .right k :: p.stack } (v.linked k (some kl) none) ∧
      Parsed l p₁ q₁ kl hl (u.allocated k (innerNode none none 0)) v ∧ p₁.seen = p.seen ∧ p₁.nint.val = p.nint.val + 1 ∧
      MayParse r { q₁ with stack := .right k :: p.stack } (v.linked k (some kl) none) ∧
      (v.linked k (some kl) none).readable = m ∧ k.val < (v.linked k (some kl) none).ncnt.val := by
  have hints := h.ints
  have := l.leaves_length_pos
  have := r.leaves_length_pos
  simp only [Tree.leaves, List.length_append] at hints
  have hncnt : u.ncnt.val = k.val := (congrArg Fin.val hreads.frame.ncnt_eq).trans hk.symm
  have halloc := allocated_frame u k (innerNode none none 0)
  have hncnt₁ : (u.allocated k (innerNode none none 0)).ncnt.val = s.ncnt.val + 1 := hk ▸ rfl
  have hdir : (u.allocated k (innerNode none none 0)).dir = .read := hreads.frame.dir_eq.trans h.dir
  have hmay := h.left (p' := { p with nint := ⟨p.nint.val + 1, by omega⟩, stack := .left k :: p.stack }) rfl rfl hdir hncnt₁
  obtain ⟨q₁, kl, hl, v, hloop, hleft⟩ := ihl hmay (halloc.consumes.readable.symm.trans hm)
  have hnode : v.node[k.val] = some (innerNode none none 0) := by
    rw [hleft.node k (by omega), State.allocated_node, Vector.getElem_set_self]
  rw [returnTree_left hnode, Res.bind_ok] at hloop
  have hncnt₂ : v.ncnt.val = s.ncnt.val + 1 + l.size := hncnt₁ ▸ hleft.ncnt
  refine ⟨_, q₁, kl, hl, v, (parseLoop_of_int hu (by omega) hncnt).trans hloop, hleft, rfl, rfl,
    h.right hleft.seen hleft.nint (hleft.frame.dir_eq.trans hdir) hncnt₂, ?_, by rw [State.linked_ncnt]; omega⟩
  have hrest : l.header ++ m = l.header ++ v.readable :=
    (hm.symm.trans halloc.consumes.readable).trans hleft.consumes.readable
  exact (State.linked_frame (s := v) k _ _).consumes.readable.symm.trans (List.append_cancel_left hrest).symm

/-- The parse of a header that the readable bits begin with: it builds the tree and returns it (R88, R171). -/
theorem parseLoop_of_header (tree : Tree) {p : HeaderParse} {s : State} {m : List Bool} (h : MayParse tree p s)
    (hm : s.readable = tree.header ++ m) (n : Nat) :
    ∃ q k hs t, parseLoop (n + tree.size) p s = (returnTree p.stack k t).bind (parseOn n q) ∧ Parsed tree p q k hs s t := by
  induction tree generalizing p s m n with
  | leaf x =>
    obtain ⟨k, t, hloop, hparsed⟩ := Parsed.of_leaf h hm n
    exact ⟨_, k, _, t, hloop, hparsed⟩
  | node l r ihl ihr =>
    rw [Tree.header_node, List.append_assoc, List.append_assoc] at hm
    obtain ⟨u, hu, hreads, hul⟩ := readToken_of_bits h.dir hm
    have hroom : s.ncnt.val < 513 := by have := h.room; simp only [Tree.size] at this; omega
    obtain ⟨p₁, q₁, kl, hl, v, hloop, hleft, hseen, hint, hmay, hrest, hlt⟩ :=
      parseLoop_of_left (k := ⟨s.ncnt.val, hroom⟩) h rfl hu hreads (n := n + r.size) (fun hp hs => ihl hp hs _) hul
    obtain ⟨q, kr, hr, w, hloop', hright⟩ := ihr hmay hrest n
    have hnode := (hright.node ⟨s.ncnt.val, hroom⟩ hlt).trans (State.linked_node_self _ _)
    refine ⟨q, ⟨s.ncnt.val, hroom⟩, _, _, ?_, .of_node rfl hreads hleft hseen hint hright rfl rfl⟩
    rw [← returnTree_right hnode, ← hloop', ← hloop, Tree.size,
      show n + (l.size + r.size + 1) = n + r.size + l.size + 1 by omega]

/-- The parse of a header that the readable bits end inside: it takes them all and raises what the next pull gives (R173). -/
theorem parseLoop_of_cut_header (tree : Tree) {p : HeaderParse} {s : State} {m : List Bool} (h : MayParse tree p s)
    (hm : tree.header = s.readable ++ m) (hne : m ≠ []) (n : Nat) :
    ∃ t, parseLoop (n + tree.size) p s = .raise (outOfBits t) t ∧ RunsOut s t := by
  induction tree generalizing p s m n with
  | leaf x =>
    have hno (tok : Token) (l : List Bool) : s.readable ≠ tok.bits ++ l := by
      intro hl
      rw [Tree.header_leaf, hl, List.append_assoc] at hm
      have hread : decodeToken (leafToken x).bits = .ok (leafToken x, []) := decodeToken_eq_ok_iff.mpr (by simp)
      simp [decodeToken_eq_ok_iff.mpr hm, hne] at hread
    obtain ⟨t, ht, hout⟩ := readToken_of_no_bits h.dir hno
    exact ⟨t, parseLoop_of_raise ht, hout⟩
  | node l r ihl ihr =>
    have hsize : n + (Tree.node l r).size = n + r.size + l.size + 1 := by simp only [Tree.size]; omega
    rw [hsize]
    have hroom : s.ncnt.val < 513 := by have := h.room; simp only [Tree.size] at this; omega
    cases hs : s.readable with
    | nil =>
      obtain ⟨t, ht, hout⟩ := readToken_of_no_bits h.dir fun tok l hl => by cases tok <;> simp [hs, Token.bits] at hl
      exact ⟨t, parseLoop_of_raise ht, hout⟩
    | cons b rest =>
      rw [Tree.header_node, hs] at hm
      obtain ⟨rfl, hcut⟩ := List.cons.inj hm
      have hcut : l.header ++ r.header = rest ++ m := hcut
      obtain ⟨u, hu, hreads, hul⟩ := readToken_of_bits (tok := .int) h.dir hs
      have hrest : (∃ a, a ≠ [] ∧ l.header = rest ++ a) ∨ ∃ c, rest = l.header ++ c ∧ r.header = c ++ m := by
        rcases List.append_eq_append_iff.mp hcut with ⟨c, hc, hr⟩ | ⟨a, ha, hl⟩
        · exact .inr ⟨c, hc, hr⟩
        · cases a with
          | nil => exact .inr ⟨[], by simpa using ha.symm, by simp [hl]⟩
          | cons b a => exact .inl ⟨_, by simp, ha⟩
      have halloc := allocated_frame u ⟨s.ncnt.val, hroom⟩ (innerNode none none 0)
      rcases hrest with ⟨a, hne', ha⟩ | ⟨c, rfl, hc⟩
      · have hints := h.ints
        have := l.leaves_length_pos
        have := r.leaves_length_pos
        simp only [Tree.leaves, List.length_append] at hints
        have hncnt : u.ncnt.val = s.ncnt.val := congrArg Fin.val hreads.frame.ncnt_eq
        have hmay := h.left (p' := ⟨p.seen, ⟨p.nint.val + 1, by omega⟩, .left ⟨s.ncnt.val, hroom⟩ :: p.stack⟩)
          (t := u.allocated ⟨s.ncnt.val, hroom⟩ (innerNode none none 0)) rfl rfl (hreads.frame.dir_eq.trans h.dir) rfl
        obtain ⟨t, ht, hout⟩ := ihl hmay (by rw [← hul] at ha; exact ha) hne' (n + r.size)
        exact ⟨t, (parseLoop_of_int hu (by omega) hncnt).trans ht, hout.after (hreads.consumes.arena halloc)⟩
      · obtain ⟨p₁, q₁, kl, hl, v, hloop, hleft, -, -, hmay, hrest, -⟩ := parseLoop_of_left (k := ⟨s.ncnt.val, hroom⟩) h rfl hu
          hreads (n := n + r.size) (fun hp hs => parseLoop_of_header l hp hs _) hul
        obtain ⟨t, ht, hout⟩ := ihr hmay (by rw [hrest]; exact hc) hne n
        exact ⟨t, hloop.trans ht, hout.after
          (((hreads.consumes.arena halloc).trans hleft.consumes).arena (State.linked_frame _ _ _))⟩

end

end Sys2Proof.Machine
end

section
/-! PROOF. The parse of any bits (30_encoding.md R88, R89; 44_treecodec.md R173, R174): it always ends, and it completes only
where the bits it took are a tree's header. -/

namespace Sys2Proof.Machine

/-- The calls of `des()` that wait, with the header bits read before them and the symbols of the subtrees that are closed
(R171). -/
inductive Waits : List Frame → List Bool → List Sym → Prop
  | nil : Waits [] [] []
  | left {st : List Frame} {b : List Bool} {xs : List Sym} (h : NodeIx) (hw : Waits st b xs) :
      Waits (.left h :: st) (b ++ Token.int.bits) xs
  | right {st : List Frame} {b : List Bool} {xs : List Sym} (h : NodeIx) (l : Tree) (hw : Waits st b xs) :
      Waits (.right h :: st) (b ++ Token.int.bits ++ l.header) (xs ++ l.leaves)

/-- A subtree was returned to the calls that wait: some call goes on with its right subtree, or the tree is complete. -/
def Returned (b : List Bool) (xs : List Sym) (c : List Frame × Option NodeIx) : Prop :=
  (c.2 = none ∧ Waits c.1 b xs) ∨ ∃ (r : NodeIx) (tree : Tree), c.2 = some r ∧ tree.header = b ∧ tree.leaves = xs

/-- The nodes of the calls that wait are in use. -/
def StackUsed (st : List Frame) (s : State) : Prop := ∀ f ∈ st, s.node[f.node.val] ≠ none

theorem returnTree_waits {st : List Frame} {b : List Bool} {xs : List Sym} (hw : Waits st b xs) (tree : Tree) (k : NodeIx)
    {s : State} (hst : StackUsed st s) :
    ∃ c t, returnTree st k s = .ok c t ∧ t.ncnt = s.ncnt ∧ StackUsed c.1 t ∧ Returned (b ++ tree.header) (xs ++ tree.leaves) c := by
  induction hw generalizing tree k s with
  | nil => exact ⟨_, s, rfl, rfl, hst, Or.inr ⟨k, tree, rfl, rfl, rfl⟩⟩
  | @left st b xs h hw ih =>
    obtain ⟨e, he⟩ := Option.ne_none_iff_exists'.mp (hst _ List.mem_cons_self)
    rw [returnTree, setLeft_eq h k s e he, Res.bind_ok]
    refine ⟨_, _, rfl, rfl, fun f hf => ?_, Or.inl ⟨rfl, hw.right h tree⟩⟩
    refine set_some_ne_none s.node h f.node _ ?_
    rcases List.mem_cons.mp hf with rfl | hf
    · exact hst (.left h) List.mem_cons_self
    · exact hst f (List.mem_cons_of_mem _ hf)
  | @right st b xs h l hw ih =>
    obtain ⟨e, he⟩ := Option.ne_none_iff_exists'.mp (hst _ List.mem_cons_self)
    rw [returnTree, setRight_eq h k s e he, Res.bind_ok]
    obtain ⟨c, t, hc, hn, hused, hret⟩ := ih (.node l tree) h
      (s := s.withNode (s.node.set h.val (some { e with right := some k }) h.isLt))
      fun f hf => set_some_ne_none s.node h f.node _ (hst f (List.mem_cons_of_mem _ hf))
    exact ⟨c, t, hc, hn, hused, by simpa only [Tree.header_node, Tree.leaves, List.append_assoc] using hret⟩

/-- A parse under way: the bits it took, and how much of the arena it used (R30, R171, R174). -/
structure Parsing (b : List Bool) (p : HeaderParse) (s : State) : Prop where
  dir : s.dir = .read
  waits : Waits p.stack b p.seen.reverse
  used : StackUsed p.stack s
  nodup : p.seen.Nodup
  ncnt : s.ncnt.val = p.nint.val + p.seen.length

section
variable {b : List Bool} {p : HeaderParse} {s t : State}

theorem Parsing.start (hd : s.dir = .read) : Parsing [] .start (clearTree s) :=
  ⟨hd, .nil, nofun, List.nodup_nil, rfl⟩

/-- An `INT` that is not the 257th finds room for its node (R171, R174). -/
theorem Parsing.int (h : Parsing b p s) (hf : ReadFrame s t) (hint : p.nint.val < 256) :
    ∃ (k : NodeIx) (u : State), parseInt p t =
        .ok ({ p with nint := ⟨p.nint.val + 1, by omega⟩, stack := .left k :: p.stack }, none) u ∧
      ArenaFrame t u ∧
      Parsing (b ++ Token.int.bits) { p with nint := ⟨p.nint.val + 1, by omega⟩, stack := .left k :: p.stack } u := by
  have hlen := length_le_of_nodup h.nodup
  have hncnt := h.ncnt
  have htn : t.ncnt.val = s.ncnt.val := congrArg Fin.val hf.ncnt_eq
  have hroom : t.ncnt.val < 513 := by omega
  have halloc := allocated_frame t ⟨t.ncnt.val, hroom⟩ (innerNode none none 0)
  refine ⟨⟨t.ncnt.val, hroom⟩, _, parseInt_of_lt hint rfl, halloc, ?_⟩
  constructor
  case dir => exact (hf.parse.trans halloc.parse).dir_eq.trans h.dir
  case waits => exact h.waits.left _
  case used =>
    intro f hf'
    rcases List.mem_cons.mp hf' with rfl | hmem
    · simp [Frame.node]
    · exact set_some_ne_none t.node _ f.node _ (by rw [hf.node_eq]; exact h.used f hmem)
  case nodup => exact h.nodup
  case ncnt =>
    show t.ncnt.val + 1 = p.nint.val + 1 + p.seen.length
    omega

/-- A leaf not seen before finds room for its node, and its return goes through (R171, R174). -/
theorem Parsing.leaf {x : Sym} (h : Parsing b p s) (hf : ReadFrame s t) (hx : x ∉ p.seen) :
    ∃ (c : List Frame × Option NodeIx) (u : State),
      parseLeaf x p t = .ok ({ p with seen := x :: p.seen, stack := c.1 }, c.2) u ∧ ArenaFrame t u ∧
      ((c.2 = none ∧ Parsing (b ++ (leafToken x).bits) { p with seen := x :: p.seen, stack := c.1 } u) ∨
        ∃ (r : NodeIx) (tree : Tree), c.2 = some r ∧ tree.header = b ++ (leafToken x).bits ∧
          tree.leaves = (x :: p.seen).reverse) := by
  have hnd : (x :: p.seen).Nodup := List.nodup_cons.mpr ⟨hx, h.nodup⟩
  have hlen := length_le_of_nodup hnd
  have hncnt := h.ncnt
  have htn : t.ncnt.val = s.ncnt.val := congrArg Fin.val hf.ncnt_eq
  have hint := p.nint.isLt
  rw [List.length_cons] at hlen
  have hroom : t.ncnt.val < 513 := by omega
  have halloc := allocated_frame t ⟨t.ncnt.val, hroom⟩ (leafNode x 0)
  obtain ⟨c, u, hc, hun, hused, hret⟩ := returnTree_waits h.waits (.leaf x) ⟨t.ncnt.val, hroom⟩
    (s := t.allocated ⟨t.ncnt.val, hroom⟩ (leafNode x 0))
    fun f hmem => set_some_ne_none t.node _ f.node _ (by rw [hf.node_eq]; exact h.used f hmem)
  have hframe := halloc.trans ((returnTree_frame p.stack _ _).of_eq_ok hc)
  refine ⟨c, u, by rw [parseLeaf_of_new (n := ⟨t.ncnt.val, hroom⟩) hx rfl, hc, Res.bind_ok], hframe, ?_⟩
  rcases hret with ⟨hnone, hw⟩ | hdone
  · refine .inl ⟨hnone, (hf.parse.trans hframe.parse).dir_eq.trans h.dir, ?_, hused, hnd, ?_⟩
    · simpa [Tree.header_leaf, Tree.leaves] using hw
    · rw [hun, List.length_cons]
      show t.ncnt.val + 1 = p.nint.val + (p.seen.length + 1)
      omega
  · exact .inr (by simpa [Tree.header_leaf, Tree.leaves] using hdone)

/-- How a parse that took the bits `b` can end from `s`: with a tree whose header the bits began with, with a corrupt header,
or with the readable bits (R89, R173). -/
inductive ParseEnds (b : List Bool) (s : State) : Res (HeaderParse × NodeIx) → Prop
  | tree {q : HeaderParse} (r : NodeIx) (t : State) (tree : Tree) (l : List Bool) (hbits : b ++ s.readable = tree.header ++ l)
      (hleaves : tree.leaves = q.seen.reverse) (hnd : q.seen.Nodup) : ParseEnds b s (.ok (q, r) t)
  | corrupt (t : State) : ParseEnds b s (.raise .corruptHeader t)
  | bits (t : State) (hout : RunsOut s t) : ParseEnds b s (.raise (outOfBits t) t)

theorem ParseEnds.after {l : List Bool} {r : Res (HeaderParse × NodeIx)} (h : ParseEnds (b ++ l) t r) (k : Consumes l s t) :
    ParseEnds b s r := by
  cases h with
  | tree r u tree m hbits hleaves hnd => exact .tree r u tree m (by rw [k.readable, ← hbits, List.append_assoc]) hleaves hnd
  | corrupt u => exact .corrupt u
  | bits u hout => exact .bits u (hout.after k)

theorem leafToken_byteSym (v : Byte) : leafToken (byteSym v) = .leafb v := by
  have hne : byteSym v ≠ TERM := fun h => by have := congrArg Fin.val h; have := v.isLt; simp [byteSym, TERM] at *; omega
  rw [leafToken, if_neg hne]
  simp [symByte, byteSym]

/-- A leaf's token in a parse under way. -/
theorem parseLoop_leaf_ends {n : Nat} {x : Sym} (h : Parsing b p s) (ht : readToken s = .ok (leafToken x) t)
    (hreads : Reads (leafToken x).bits s t)
    (next : ∀ q u, Parsing (b ++ (leafToken x).bits) q u → q.nint = p.nint → q.seen = x :: p.seen →
      ParseEnds (b ++ (leafToken x).bits) u (parseLoop n q u)) :
    ParseEnds b s (parseLoop (n + 1) p s) := by
  rw [parseLoop_of_token ht, parseToken_leafToken]
  by_cases hseen : x ∈ p.seen
  · rw [parseLeaf_of_seen hseen]
    exact .corrupt t
  · obtain ⟨c, u, hc, hf, ⟨hnone, hp⟩ | ⟨r, tree, hr, hheader, hleaves⟩⟩ := h.leaf hreads.frame hseen
    · rw [hc, Res.bind_ok, hnone]
      exact (next _ u hp rfl rfl).after (hreads.consumes.arena hf)
    · rw [hc, Res.bind_ok, hr]
      exact .tree r u tree t.readable (by rw [hheader, hreads.readable, List.append_assoc]) hleaves
        (List.nodup_cons.mpr ⟨hseen, h.nodup⟩)

/-- The parse ends within the turns R174 bounds it to. -/
theorem parseLoop_ends {n : Nat} (h : Parsing b p s) (hn : 514 ≤ n + p.nint.val + p.seen.length) :
    ParseEnds b s (parseLoop n p s) := by
  induction n generalizing b p s with
  | zero =>
    have := length_le_of_nodup h.nodup
    omega
  | succ n ih =>
    rcases readToken_ends h.dir with ⟨tok, t, ht, hreads⟩ | ⟨-, t, ht, hout⟩
    case inr => exact parseLoop_of_raise ht ▸ .bits t hout
    have leaf {x : Sym} (hx : leafToken x = tok) : ParseEnds b s (parseLoop (n + 1) p s) := by
      subst hx
      refine parseLoop_leaf_ends h ht hreads fun q u hp hq hseen => ih hp ?_
      rw [hq, hseen, List.length_cons]
      omega
    cases tok with
    | int =>
      rw [parseLoop_of_token ht, parseToken]
      by_cases hint : p.nint.val < 256
      · obtain ⟨k, u, hu, hf, hp⟩ := h.int hreads.frame hint
        rw [hu, Res.bind_ok]
        exact (ih hp (by simp only; omega)).after (hreads.consumes.arena hf)
      · rw [parseInt_of_full (by omega)]
        exact .corrupt t
    | leafb v => exact leaf (leafToken_byteSym v)
    | leaft => exact leaf (x := TERM) rfl

end

end Sys2Proof.Machine
end

section
/-! PROOF. `DESTREE` (44_treecodec.md R171, R173, R176): the header of a valid tree is built, anything else fails. -/

namespace Sys2Proof.Machine

/-! ## What it leaves alone -/

/-- Only the channel's buffer, `SPOS`, the arena, `TREE_V` and `CT_V` may differ. -/
def DestreeFrame (s t : State) : Prop :=
  t = { s with buf := t.buf, cnt := t.cnt, spos := t.spos, node := t.node, ncnt := t.ncnt, root := t.root, treeV := t.treeV,
               ctV := t.ctV }

section
variable {s t u : State} {tree : Tree} {l m : List Bool}

theorem DestreeFrame.refl (s : State) : DestreeFrame s s := rfl

theorem DestreeFrame.trans (h : DestreeFrame s t) (k : DestreeFrame t u) : DestreeFrame s u := by
  unfold DestreeFrame at *
  rw [k, h]

theorem ParseFrame.destree (h : ParseFrame s t) : DestreeFrame s t := by rw [h]; exact rfl

theorem clearTree_frame (s : State) : DestreeFrame s (clearTree s) := rfl

theorem DestreeFrame.keeps (h : DestreeFrame s t) :
    t.ftV = s.ftV ∧ t.ft = s.ft ∧ t.ct = s.ct ∧ t.dir = s.dir ∧ KeepsHost s t ∧ t.snk = s.snk := by
  rw [h]; exact ⟨rfl, rfl, rfl, rfl, ⟨rfl, rfl, rfl, rfl⟩, rfl⟩

theorem DestreeFrame.body (h : DestreeFrame s t) : BodyFrame s t := by rw [h]; constructor <;> rfl

theorem parseLoop_frame (n : Nat) (p : HeaderParse) (s : State) : (parseLoop n p s).All (ParseFrame s) := by
  induction n generalizing p s with
  | zero => trivial
  | succ n ih =>
    refine ((readToken_frame s).imp fun _ => ReadFrame.parse).bind (fun _ h => h) fun tok t _ h => ?_
    refine ((parseToken_frame tok p t).imp fun _ k => h.trans k.parse).bind (fun _ k => k) fun q u _ k => ?_
    cases q.2 with
    | some r => exact k
    | none => exact (ih q.1 u).imp fun _ => k.trans

theorem parseEnd_frame (p : HeaderParse) (r : NodeIx) (s : State) : (parseEnd p r s).All (DestreeFrame s) := by
  unfold parseEnd
  split
  · exact rfl
  · exact DestreeFrame.refl s

theorem destreeBody_eq (hd : s.dir = .read) : destreeBody s =
    ((parseLoop maxTokens .start (clearTree s)).onEnd .corruptHeader).bind fun q t => parseEnd q.1 q.2 t := by
  rw [destreeBody, if_neg (by simp [hd])]

theorem destreeBody_frame (s : State) : (destreeBody s).All (DestreeFrame s) := by
  by_cases hd : s.dir = .read
  · rw [destreeBody_eq hd]
    refine (((parseLoop_frame _ _ _).imp fun t h => (clearTree_frame s).trans h.destree).onEnd _).bind (fun _ h => h)
      fun q t _ h => (parseEnd_frame q.1 q.2 t).imp fun _ => h.trans
  · rw [destreeBody, if_pos hd]
    exact DestreeFrame.refl s

/-- Where `DESTREE` fails, the tree stays cleared (R171, R173). -/
theorem destreeBody_raise_cleared {f : Failure} (hd : s.dir = .read) (h : destreeBody s = .raise f t) :
    t.treeV = false ∧ t.ctV = false ∧ t.root = none := by
  have cleared {u : State} (hu : ParseFrame (clearTree s) u) : u.treeV = false ∧ u.ctV = false ∧ u.root = none := by
    rw [hu]; exact ⟨rfl, rfl, rfl⟩
  rw [destreeBody_eq hd] at h
  have hframe := (parseLoop_frame maxTokens .start (clearTree s)).onEnd (f := .corruptHeader)
  rcases Res.bind_eq_raise.mp h with h | ⟨q, u, hq, h⟩
  · exact cleared (hframe.of_eq_raise h)
  · by_cases hterm : TERM ∈ q.1.seen
    · simp [parseEnd_of_term hterm] at h
    · obtain ⟨-, rfl⟩ : Failure.corruptHeader = f ∧ u = t := by simpa [parseEnd_of_no_term hterm] using h
      exact cleared (hframe.of_eq_ok hq)

/-! ## The three ways it can go -/

/-- `DESTREE` has built the tree: it stands in the arena in pre-order from handle 0, with weight 0 (R171, R176). -/
structure Destreed (tree : Tree) (hs : List NodeIx) (s t : State) : Prop where
  consumes : Consumes tree.header s t
  treeV : t.treeV = true
  ctV : t.ctV = false
  root : t.root.map (·.val) = some 0
  tree? : t.tree? = some (tree, hs)
  handles : hs.map (·.val) = List.range tree.size
  ncnt : t.ncnt.val = tree.size
  weights : ∀ h ∈ hs, ∃ e, t.node[h.val] = some e ∧ e.w = 0

theorem clearTree_consumes (s : State) : Consumes [] s (clearTree s) := .of_eq rfl rfl rfl rfl

theorem rooted_consumes (s : State) (r : NodeIx) : Consumes [] s (s.rooted r) := .of_eq rfl rfl rfl rfl

theorem rooted_tree? (s : State) (r : NodeIx) : (s.rooted r).tree? = absTree maxFrames s.node r := rfl

/-- At the start of `DESTREE` any valid tree fits (R10, R174). -/
theorem Tree.Wf.mayParse (hwf : tree.Wf) (hd : s.dir = .read) : MayParse tree .start (clearTree s) := by
  obtain ⟨hlen, hsize, -⟩ := treeAndHeaderSizes tree hwf
  exact ⟨hd, hwf.1, fun _ _ => List.not_mem_nil, by simpa [HeaderParse.start] using hlen,
    (by simp only [clearTree, State.withTree_ncnt]; omega)⟩

theorem Tree.Wf.turns (hwf : tree.Wf) : ∃ n, maxTokens = n + tree.size := by
  obtain ⟨hlen, hsize, -⟩ := treeAndHeaderSizes tree hwf
  exact Nat.exists_eq_add_of_le' (by rw [maxTokens]; omega)

theorem destreeBody_of_header (hd : s.dir = .read) (hwf : tree.Wf) (hm : s.readable = tree.header ++ m) :
    ∃ hs t, destreeBody s = .ok () t ∧ Destreed tree hs s t := by
  obtain ⟨n, hn⟩ := hwf.turns
  obtain ⟨q, r, hs, t, hloop, hparsed⟩ := parseLoop_of_header tree (hwf.mayParse hd) hm n
  have hterm : TERM ∈ q.seen := by rw [hparsed.seen]; simp [hwf.2]
  have hstands := hparsed.stands
  obtain ⟨-, -, hdepth, -⟩ := treeAndHeaderSizes tree hwf
  have hlen := length_le_of_nodup hwf.1
  refine ⟨hs, t.rooted r, ?_, ?_⟩
  · rw [destreeBody_eq hd, hn, hloop]
    exact parseEnd_of_term hterm r
  · constructor
    case consumes => simpa using ((clearTree_consumes s).trans hparsed.consumes).trans (rooted_consumes t r)
    case treeV => rfl
    case ctV => rw [hparsed.frame]; rfl
    case root => exact congrArg some hstands.root
    case tree? => exact absTree_congr hstands.abs (fun _ _ => rfl) (by rw [maxFrames]; omega)
    case handles => rw [hstands.handles, List.range_eq_range']; rfl
    case ncnt => exact hparsed.ncnt.trans (Nat.zero_add _)
    case weights => exact hstands.weights

theorem destreeBody_of_no_header (hd : s.dir = .read)
    (hno : ∀ (tree : Tree) (l : List Bool), tree.Wf → s.readable ≠ tree.header ++ l) :
    (∃ t, destreeBody s = .raise .corruptHeader t) ∨
    ∃ t, destreeBody s = .raise (if outOfBits t = .endOfStream then .corruptHeader else outOfBits t) t ∧ RunsOut s t := by
  have hends := parseLoop_ends (n := maxTokens) (Parsing.start hd) (Nat.le_add_right 514 0)
  rw [destreeBody_eq hd]
  generalize parseLoop maxTokens .start (clearTree s) = res at hends ⊢
  cases hends with
  | @tree q r t tree l hbits hleaves hnd =>
    have hterm : TERM ∉ q.seen := fun h =>
      hno tree l ⟨hleaves ▸ List.nodup_reverse.mpr hnd, by rw [hleaves]; exact List.mem_reverse.mpr h⟩ hbits
    exact .inl ⟨t, parseEnd_of_no_term hterm r⟩
  | corrupt t => exact .inl ⟨t, rfl⟩
  | bits t hout => exact .inr ⟨t, rfl, hout.after (clearTree_consumes s)⟩

theorem destreeBody_of_cut_header (hd : s.dir = .read) (hwf : tree.Wf) (hm : tree.header = s.readable ++ m) (hne : m ≠ []) :
    ∃ t, destreeBody s = .raise (if outOfBits t = .endOfStream then .corruptHeader else outOfBits t) t ∧ RunsOut s t := by
  obtain ⟨n, hn⟩ := hwf.turns
  obtain ⟨t, hloop, hout⟩ := parseLoop_of_cut_header tree (hwf.mayParse hd) hm hne n
  refine ⟨t, ?_, hout.after (clearTree_consumes s)⟩
  rw [destreeBody_eq hd, hn, hloop]
  rfl

theorem absTree_root_mem {n : Nat} {a : Vector (Option Node) 513} {h : NodeIx} {hs : List NodeIx}
    (htree : absTree n a h = some (tree, hs)) : h ∈ hs := by
  cases n with
  | zero => simp [absTree] at htree
  | succ n =>
    obtain ⟨e, -, ⟨-, -, rfl⟩ | ⟨-, l, r, tl, hl, tr, hr, -, -, -, -, -, rfl⟩⟩ := absTree_cases htree <;> simp

/-- The nodes of a tree hold the children of each of them (R31). -/
theorem absTree_children_mem {n : Nat} {a : Vector (Option Node) 513} {h g l r : NodeIx} {hs : List NodeIx} {e : Node}
    (htree : absTree n a h = some (tree, hs)) (hg : g ∈ hs) (he : a[g.val] = some e) (hleaf : e.leaf = false)
    (hl : e.left = some l) (hr : e.right = some r) : l ∈ hs ∧ r ∈ hs := by
  induction n generalizing h tree hs with
  | zero => simp [absTree] at htree
  | succ n ih =>
    obtain ⟨f, hf, ⟨hfleaf, -, rfl⟩ | ⟨-, l', r', tl, hsl, tr, hsr, hfl, hfr, htl, htr, -, rfl⟩⟩ := absTree_cases htree
    · obtain rfl := List.mem_singleton.mp hg
      obtain rfl : e = f := Option.some.inj (he.symm.trans hf)
      simp [hfleaf] at hleaf
    · rcases List.mem_cons.mp hg with rfl | hg
      · obtain rfl : e = f := Option.some.inj (he.symm.trans hf)
        obtain rfl : l' = l := Option.some.inj (hfl.symm.trans hl)
        obtain rfl : r' = r := Option.some.inj (hfr.symm.trans hr)
        simp [absTree_root_mem htl, absTree_root_mem htr]
      · rcases List.mem_append.mp hg with hg | hg
        · obtain ⟨h1, h2⟩ := ih htl hg; simp [h1, h2]
        · obtain ⟨h1, h2⟩ := ih htr hg; simp [h1, h2]

theorem Destreed.holdsTree {hs : List NodeIx} (h : Destreed tree hs s t) (hwf : tree.Wf) : HoldsTree t tree := by
  obtain ⟨r, -, habs⟩ := State.tree?_eq_some_iff.mp h.tree?
  have zero {g : NodeIx} (hg : g ∈ hs) {e : Node} (he : t.node[g.val] = some e) : e.w = 0 := by
    obtain ⟨e', he', hw⟩ := h.weights g hg
    rwa [Option.some.inj (he.symm.trans he')]
  refine ⟨hs, h.tree?, .of_map _ (h.handles ▸ List.nodup_range), fun g => ?_, hwf, fun g hg e he => ⟨?_, ?_⟩⟩
  · rw [h.ncnt, ← List.mem_range, ← h.handles]
    exact ⟨List.mem_map_of_mem, fun hg => by obtain ⟨g', hg', hval⟩ := List.mem_map.mp hg; exact Fin.ext hval ▸ hg'⟩
  · rw [zero hg he]; exact Nat.two_pow_pos _
  · intro l r el er hleaf hl hr hel her
    obtain ⟨hlmem, hrmem⟩ := absTree_children_mem habs hg he hleaf hl hr
    rw [zero hg he, zero hlmem hel, zero hrmem her]

end

/-! ## The obligations -/

/-- Settles O37: the parse of the header is an induction on the tree, and at its end `ROOT` is handle 0. -/
theorem destreeReadsTheHeader : Obligations.DestreeReadsTheHeader := by
  intro s tree l hd hwf hm
  obtain ⟨hs, t, ht, h⟩ := destreeBody_of_header hd hwf hm
  have hframe := (destreeBody_frame s).of_eq_ok ht
  obtain ⟨hftV, hft, hct, hdir, hhost, hsnk⟩ := hframe.keeps
  refine ⟨endOk 0 t, hs, finishUnit_of_eq_ok ht, hframe.body.endsOk 0, h.holdsTree hwf, h.tree?, h.handles, h.ncnt, h.root,
    fun g hg => ?_, ?_, h.consumes.unread, hftV, h.treeV, h.ctV, hft, hct, hdir.trans hd, hhost, hsnk⟩
  · obtain ⟨e, he, hw⟩ := h.weights g hg
    exact ⟨e, by rw [Vector.getElem?_eq_getElem g.isLt]; exact congrArg some he, hw⟩
  · exact (List.append_cancel_left (hm.symm.trans h.consumes.readable)).symm

/-- Settles O38: the parse of bits that are no valid header ends with a corrupt header or with the bits, and of bits that
could still be one only with the bits. -/
theorem destreeRejectsMalformedHeaders : Obligations.DestreeRejectsMalformedHeaders := by
  refine ⟨fun s hd => ⟨_, exec_of_wrong_dir (n := .read) rfl hd, endFail_onlyFails _ s⟩, fun s hd hs hno => ?_⟩
  have fails {f : Failure} {t : State} (ht : destreeBody s = .raise f t)
      (hf : f = .corruptHeader ∨ (f = .ioError ∧ readsIntoError s = true ∧ t.readable = []))
      (hcut : ∀ (tree : Tree) (l : List Bool), tree.Wf → tree.header = s.readable ++ l →
        f = (if readsIntoError s then .ioError else .corruptHeader) ∧ t.readable = [] ∧ t.cnt.val = 0) :
      ∃ t f, exec .destree s = .next t ∧ EndsFailed f s t ∧
        (f = .corruptHeader ∨ (f = .ioError ∧ readsIntoError s = true ∧ t.readable = [])) ∧
        (∀ (tree : Tree) (l : List Bool), tree.Wf → tree.header = s.readable ++ l →
          f = (if readsIntoError s then .ioError else .corruptHeader) ∧ t.readable = [] ∧ t.cnt.val = 0) ∧
        t.treeV = false ∧ t.ctV = false ∧ t.ftV = s.ftV ∧ t.root = none ∧ t.dir = .read ∧ t.ft = s.ft ∧ t.ct = s.ct ∧
        KeepsHost s t ∧ t.snk = s.snk := by
    obtain ⟨htreeV, hctV, hroot⟩ := destreeBody_raise_cleared hd ht
    have hframe := (destreeBody_frame s).of_eq_raise ht
    obtain ⟨hftV, hft, hct, hdir, hhost, hsnk⟩ := hframe.keeps
    exact ⟨endFail f t, f, finishUnit_of_eq_raise ht, hframe.body.endsFailed f, hf, hcut, htreeV, hctV, hftV, hroot,
      hdir.trans hd, hft, hct, hhost, hsnk⟩
  have cut {t : State} (hout : RunsOut s t) (tree : Tree) (l : List Bool) (_ : tree.Wf) (_ : tree.header = s.readable ++ l) :
      (if outOfBits t = .endOfStream then .corruptHeader else outOfBits t) =
        (if readsIntoError s then Failure.ioError else .corruptHeader) ∧ t.readable = [] ∧ t.cnt.val = 0 :=
    ⟨hout.onEnd_eq hs _, hout.readable_eq_nil, hout.cnt⟩
  rcases destreeBody_of_no_header hd hno with ⟨t, ht⟩ | ⟨t, ht, hout⟩
  · refine fails ht (.inl rfl) fun tree l hwf hl => ?_
    have hne : l ≠ [] := fun h => hno tree [] hwf (by rw [hl, h, List.append_nil, List.append_nil])
    obtain ⟨u, hu, hout⟩ := destreeBody_of_cut_header hd hwf hl hne
    obtain ⟨hf, rfl⟩ := Res.raise.inj (ht.symm.trans hu)
    obtain ⟨hf', hnil⟩ := cut hout tree l hwf hl
    exact ⟨hf.trans hf', hnil⟩
  · refine fails ht ?_ (cut hout)
    rw [hout.onEnd_eq hs]
    cases readsIntoError s
    · exact .inl rfl
    · exact .inr ⟨rfl, rfl, hout.readable_eq_nil⟩

end Sys2Proof.Machine
end

section
/-! PROOF. The fields no operation inside a command looks at (10_state.md R28, R43): what an operation does is the same
whatever they hold. -/

namespace Sys2Proof.Machine

/-- `s` with the end of the last command, the host's words and the model's own parse as they stand in `u`. -/
def State.aside (s u : State) : State :=
  { s with status := u.status, faults := u.faults, res := u.res, hdr := u.hdr, inbox := u.inbox, resp := u.resp }

section
variable (s u v : State)

@[simp] theorem State.aside_cfg : (s.aside u).cfg = s.cfg := rfl
@[simp] theorem State.aside_dir : (s.aside u).dir = s.dir := rfl
@[simp] theorem State.aside_buf : (s.aside u).buf = s.buf := rfl
@[simp] theorem State.aside_cnt : (s.aside u).cnt = s.cnt := rfl
@[simp] theorem State.aside_spos : (s.aside u).spos = s.spos := rfl
@[simp] theorem State.aside_ftV : (s.aside u).ftV = s.ftV := rfl
@[simp] theorem State.aside_treeV : (s.aside u).treeV = s.treeV := rfl
@[simp] theorem State.aside_ctV : (s.aside u).ctV = s.ctV := rfl
@[simp] theorem State.aside_root : (s.aside u).root = s.root := rfl
@[simp] theorem State.aside_ncnt : (s.aside u).ncnt = s.ncnt := rfl
@[simp] theorem State.aside_ft : (s.aside u).ft = s.ft := rfl
@[simp] theorem State.aside_node : (s.aside u).node = s.node := rfl
@[simp] theorem State.aside_ct : (s.aside u).ct = s.ct := rfl
@[simp] theorem State.aside_src : (s.aside u).src = s.src := rfl
@[simp] theorem State.aside_snk : (s.aside u).snk = s.snk := rfl

end

/-- The result of an operation, with those fields as they stand in `u`. -/
def Res.aside {α : Type} (r : Res α) (u : State) : Res α :=
  match r with
  | .ok a s    => .ok a (s.aside u)
  | .raise f s => .raise f (s.aside u)
  | .stuck e   => .stuck e

/-- The operation does not look at those fields and does not write them. -/
def Blind {α : Type} (f : State → Res α) : Prop := ∀ s u, f (s.aside u) = (f s).aside u

section
variable {α β : Type} {f : State → Res α} {s t u : State}

theorem Blind.pure (a : α) : Blind fun s => .ok a s := fun _ _ => rfl

theorem Blind.bind {k : α → State → Res β} (hf : Blind f) (hk : ∀ a, Blind (k a)) : Blind fun s => (f s).bind k := by
  intro s u
  change (f (s.aside u)).bind k = ((f s).bind k).aside u
  rw [hf s u]
  cases f s with
  | ok a t => exact hk a t u
  | raise g t => rfl
  | stuck e => rfl

theorem Blind.ite {c : State → Prop} [∀ s, Decidable (c s)] {g : State → Res α} (hc : ∀ s u, c (s.aside u) = c s)
    (hf : Blind f) (hg : Blind g) : Blind fun s => if c s then f s else g s := by
  intro s u
  simp only [hc s u, hf s u, hg s u]
  split <;> rfl

theorem Blind.raise (g : Failure) : Blind fun s => (.raise g s : Res α) := fun _ _ => rfl

theorem Blind.of_ok {a : α} (hf : Blind f) (h : f s = .ok a t) (u : State) : f (s.aside u) = .ok a (t.aside u) := by
  rw [hf, h]; rfl

theorem Blind.of_raise {g : Failure} (hf : Blind f) (h : f s = .raise g t) (u : State) :
    f (s.aside u) = .raise g (t.aside u) := by
  rw [hf, h]; rfl

end

/-! ## Reading -/

theorem srcPull_blind : Blind srcPull := by
  unfold srcPull
  refine .ite (fun _ _ => rfl) (.raise _) (.ite (fun _ _ => rfl) (.raise _) fun s u => ?_)
  simp only [State.aside_src, State.aside_spos]
  cases s.src.data[s.spos]? <;> rfl

theorem takeBit_blind : Blind takeBit := fun _ _ => rfl

theorem readBit_blind : Blind readBit := by
  unfold readBit
  refine .ite (fun _ _ => rfl) (.raise _) (.ite (fun _ _ => rfl) (srcPull_blind.bind fun r => ?_) takeBit_blind)
  cases r <;> exact fun _ _ => rfl

theorem readBits_blind (n : Nat) (v : Byte) : Blind (readBits n v) := by
  induction n generalizing v with
  | zero => exact .pure v
  | succ n ih => exact readBit_blind.bind fun b => ih (setBit v n b)

theorem readToken_blind : Blind readToken := by
  refine readBit_blind.bind fun f => ?_
  cases f
  · exact .pure _
  · refine readBit_blind.bind fun t => ?_
    cases t
    · exact (readBits_blind 8 0#8).bind fun b => .pure _
    · exact .pure _

/-! ## The arena -/

theorem readNode_blind (h : NodeIx) : Blind (readNode h) := fun s u => by
  simp only [readNode, State.aside_node]
  cases s.node[h.val] <;> rfl

theorem alloc_blind (e : Node) : Blind (alloc e) := fun s u => by
  rcases alloc_cases e s with ⟨hn, h⟩ | ⟨hn, h⟩
  · rw [h, alloc, dif_neg (by rw [State.aside_ncnt]; omega)]; rfl
  · rw [h, alloc, dif_pos (by rw [State.aside_ncnt]; exact hn)]; rfl

theorem returnTree_blind (st : List Frame) (r : NodeIx) : Blind (returnTree st r) := by
  induction st generalizing r with
  | nil => exact .pure _
  | cons f st ih =>
    cases f with
    | left h => exact ((readNode_blind h).bind fun e _ _ => rfl).bind fun _ => .pure _
    | right h => exact ((readNode_blind h).bind fun e _ _ => rfl).bind fun _ => ih h

theorem parseToken_blind (tok : Token) (p : HeaderParse) : Blind (parseToken tok p) := by
  have leaf (x : Sym) : Blind (parseLeaf x p) := by
    by_cases hx : x ∈ p.seen
    · exact fun s u => by rw [parseLeaf_of_seen hx, parseLeaf_of_seen hx]; rfl
    · have : parseLeaf x p = fun s => (alloc (leafNode x 0) s).bind fun n s =>
          (returnTree p.stack n s).bind fun q s => .ok ({ p with seen := x :: p.seen, stack := q.1 }, q.2) s :=
        funext fun s => if_neg hx
      exact this ▸ (alloc_blind _).bind fun n => (returnTree_blind p.stack n).bind fun q => .pure _
  cases tok with
  | int =>
    intro s u
    simp only [parseToken, parseInt]
    split
    · exact (alloc_blind _).bind (fun n => .pure _) s u
    · rfl
  | leafb b => exact leaf _
  | leaft => exact leaf _

end Sys2Proof.Machine
end

section
/-! PROOF. `DESTREE` and its header run token by token end in the same state (44_treecodec.md R171; log entry 6). -/

namespace Sys2Proof.Machine

section
variable {α : Type} {f : State → Res α} {s t : State}

theorem BodyFrame.aside_withHdr (h : BodyFrame s t) (q : Option HeaderParse) : t.aside (s.withHdr q) = t.withHdr q := by
  simp only [State.aside, State.withHdr, h.status, h.faults, h.res, h.inbox, h.resp]

theorem withHdr_of_hdr_none (h : s.hdr = none) : s.withHdr none = s := by rw [← h]; rfl

/-- An operation run with a parse set beside it does the same and leaves the parse there. -/
theorem Blind.withHdr_ok {a : α} (hf : Blind f) (hframe : (f s).All (BodyFrame s)) (h : f s = .ok a t)
    (q : Option HeaderParse) : f (s.withHdr q) = .ok a (t.withHdr q) := by
  rw [← (hframe.of_eq_ok h).aside_withHdr q]
  exact hf.of_ok h (s.withHdr q)

theorem Blind.withHdr_raise {g : Failure} (hf : Blind f) (hframe : (f s).All (BodyFrame s)) (h : f s = .raise g t)
    (q : Option HeaderParse) : f (s.withHdr q) = .raise g (t.withHdr q) := by
  rw [← (hframe.of_eq_raise h).aside_withHdr q]
  exact hf.of_raise h (s.withHdr q)

end

section
variable {s t u : State} {p : HeaderParse}

theorem run_succ {k : Nat} (h : step s = .next t) (hk : Sys2Proof.core.run k t = .next u) :
    Sys2Proof.core.run (k + 1) s = .next u := by
  have h' : Sys2Proof.core.step s = .next t := h
  simpa only [Host.Core.run, h'] using hk

theorem run_one (h : step s = .next t) : Sys2Proof.core.run 1 s = .next t := run_succ h rfl

theorem step_withHdr (s : State) (p : HeaderParse) : step (s.withHdr (some p)) = headerStep (s.withHdr (some p)) := rfl

theorem readToken_body (s : State) : (readToken s).All (BodyFrame s) := (readToken_frame s).imp fun _ => ReadFrame.body

theorem parseToken_body (tok : Token) (p : HeaderParse) (s : State) : (parseToken tok p s).All (BodyFrame s) :=
  (parseToken_frame tok p s).imp fun _ => ArenaFrame.body

/-- A token that cannot be read ends the header, as it ends `DESTREE` (R173). -/
theorem step_of_readToken_raise {f : Failure} (hs : s.hdr = none) (h : readToken s = .raise f t) :
    step (s.withHdr (some p)) = .next (endFail (if f = .endOfStream then .corruptHeader else f) t) := by
  have ht : t.hdr = none := ((readToken_body s).of_eq_raise h).hdr.trans hs
  rw [step_withHdr, headerStep, readToken_blind.withHdr_raise (readToken_body s) h]
  exact congrArg (fun v => Host.Outcome.next (endFail _ v)) (withHdr_of_hdr_none ht)

/-- A token that is read is run (R91, R171). -/
theorem step_of_readToken {tok : Token} (h : readToken s = .ok tok t) :
    step (s.withHdr (some p)) = finishToken (parseToken tok p (t.withHdr (some p))) := by
  rw [step_withHdr, headerStep, readToken_blind.withHdr_ok (readToken_body s) h]
  exact exec_token_of_hdr rfl tok

/-- The rest of a `DESTREE` is so many token steps, from where its parse stands (R88, R171). -/
theorem run_of_parseLoop {n : Nat} (hs : s.hdr = none)
    (h : finishUnit (((parseLoop n p s).onEnd .corruptHeader).bind fun q t => parseEnd q.1 q.2 t) = .next t) :
    ∃ k, Sys2Proof.core.run k (s.withHdr (some p)) = .next t := by
  induction n generalizing p s with
  | zero => simp [parseLoop, finishUnit, finish] at h
  | succ n ih =>
    cases hr : readToken s with
    | stuck e => simp [parseLoop, hr, finishUnit, finish] at h
    | raise f u =>
      rw [parseLoop_of_raise hr] at h
      exact ⟨1, run_one ((step_of_readToken_raise hs hr).trans h)⟩
    | ok tok u =>
      have hu : u.hdr = none := ((readToken_body s).of_eq_ok hr).hdr.trans hs
      have hstep := step_of_readToken (p := p) hr
      rw [parseLoop_of_token hr] at h
      cases hp : parseToken tok p u with
      | stuck e => simp [hp, finishUnit, finish] at h
      | raise f v =>
        have hv : v.hdr = none := ((parseToken_body tok p u).of_eq_raise hp).hdr.trans hu
        obtain rfl : f = .corruptHeader := by
          have hf := parseToken_endsIn tok p (s := u) rfl
          rw [hp] at hf
          exact List.mem_singleton.mp hf
        rw [(parseToken_blind tok p).withHdr_raise (parseToken_body tok p u) hp, finishToken_raise] at hstep
        rw [hp] at h
        refine ⟨1, run_one (hstep.trans ((congrArg (fun w => Host.Outcome.next (endFail _ w)) ?_).trans h))⟩
        exact withHdr_of_hdr_none hv
      | ok q v =>
        have hv : v.hdr = none := ((parseToken_body tok p u).of_eq_ok hp).hdr.trans hu
        rw [(parseToken_blind tok p).withHdr_ok (parseToken_body tok p u) hp] at hstep
        rw [hp, Res.bind_ok] at h
        obtain ⟨q, _ | r⟩ := q
        · obtain ⟨k, hk⟩ := ih hv h
          exact ⟨k + 1, run_succ hstep hk⟩
        · refine ⟨1, run_one (hstep.trans (Eq.trans ?_ h))⟩
          exact congrArg (fun w => finishUnit (parseEnd q r w)) (withHdr_of_hdr_none hv)

/-- Settles O43: step by step along `DESTREE`'s parse, whose operations do not look at the model's own field. -/
theorem destreeIsItsTokensInOrder : Obligations.DestreeIsItsTokensInOrder := by
  intro s t hs hd h
  refine run_of_parseLoop (s := clearTree s) (n := maxTokens) hs ?_
  rw [← destreeBody_eq hd]
  exact h

end

end Sys2Proof.Machine
end

section
/-! PROOF. What the commands on the tables leave alone (10_state.md R22, R29; 20_memory.md R51). -/

namespace Sys2Proof.Machine

/-- Only `FT`, `SPOS` and the flags may differ. -/
def FreqFrame (s t : State) : Prop :=
  t = { s with spos := t.spos, ft := t.ft, ftV := t.ftV, treeV := t.treeV, ctV := t.ctV }

/-- Only the arena, `TREE_V` and `CT_V` may differ. -/
def BuildFrame (s t : State) : Prop :=
  t = { s with node := t.node, ncnt := t.ncnt, root := t.root, treeV := t.treeV, ctV := t.ctV }

/-- Only `CT` and `CT_V` may differ. -/
def CodesFrame (s t : State) : Prop := t = { s with ct := t.ct, ctV := t.ctV }

section
variable {s t u : State}

theorem FreqFrame.refl (s : State) : FreqFrame s s := rfl

theorem FreqFrame.trans (h : FreqFrame s t) (k : FreqFrame t u) : FreqFrame s u := by
  unfold FreqFrame at *
  rw [k, h]

theorem BuildFrame.refl (s : State) : BuildFrame s s := rfl

theorem BuildFrame.trans (h : BuildFrame s t) (k : BuildFrame t u) : BuildFrame s u := by
  unfold BuildFrame at *
  rw [k, h]

theorem ArenaFrame.build (h : ArenaFrame s t) : BuildFrame s t := by rw [h]; exact rfl

theorem CodesFrame.refl (s : State) : CodesFrame s s := rfl

theorem CodesFrame.trans (h : CodesFrame s t) (k : CodesFrame t u) : CodesFrame s u := by
  unfold CodesFrame at *
  rw [k, h]

theorem srcPull_freqFrame (s : State) : (srcPull s).All (FreqFrame s) := by
  rcases srcPull_cases s with ⟨h, -⟩ | ⟨h, -⟩ | ⟨b, h, -⟩ <;> rw [h]
  · exact FreqFrame.refl s
  · exact FreqFrame.refl s
  · exact rfl

theorem freqLoop_frame (n : Nat) (s : State) : (freqLoop n s).All (FreqFrame s) := by
  induction n generalizing s with
  | zero => trivial
  | succ n ih =>
    refine (srcPull_freqFrame s).bind (fun _ h => h) fun r t _ h => ?_
    cases r with
    | none => exact h
    | some b =>
      simp only [readFt]
      cases t.ft[b.toNat]'b.isLt with
      | none => trivial
      | some c => exact (ih _).imp fun _ k => (h.trans (u := writeFt b (c + 1) t) rfl).trans k

theorem freqBody_frame (s : State) : (freqBody s).All (FreqFrame s) := by
  unfold freqBody srcRewind
  split
  · exact FreqFrame.refl s
  split
  · exact rfl
  · exact ((freqLoop_frame _ _).imp fun _ h =>
      FreqFrame.trans (t := ((s.withFlags false false false).withSpos 0).withFt (Vector.replicate 256 (some 0))) rfl h).bind
        (fun _ h => h) fun _ t _ h => h.trans rfl

theorem allocLeaves_frame (l : List (Sym × Nat)) (q : List QEntry) (s : State) : (allocLeaves l q s).All (ArenaFrame s) := by
  induction l generalizing q s with
  | nil => exact ArenaFrame.refl s
  | cons p l ih => exact (alloc_frame _ s).bind (fun _ h => h) fun h t _ k => (ih _ t).imp fun _ => k.trans

theorem mergeLoop_frame (n : Nat) (q : List QEntry) (s : State) : (mergeLoop n q s).All (ArenaFrame s) := by
  induction n generalizing q s with
  | zero => trivial
  | succ n ih =>
    unfold mergeLoop
    split
    · trivial
    split
    · exact ArenaFrame.refl s
    · exact (alloc_frame _ s).bind (fun _ h => h) fun h t _ k => (ih _ t).imp fun _ => k.trans

theorem buildBody_frame (s : State) : (buildBody s).All (BuildFrame s) := by
  unfold buildBody
  split
  · exact BuildFrame.refl s
  split
  · trivial
  · exact ((allocLeaves_frame _ _ _).imp fun _ h => BuildFrame.trans (t := clearTree s) rfl h.build).bind (fun _ h => h)
      fun q t _ h => ((mergeLoop_frame _ q t).imp fun _ k => h.trans k.build).bind (fun _ k => k) fun r u _ k => k.trans rfl

theorem codesWalk_frame (n : Nat) (h : NodeIx) (c : List Bool) (s : State) : (codesWalk n h c s).All (CodesFrame s) := by
  induction n generalizing h c s with
  | zero => trivial
  | succ n ih =>
    unfold codesWalk readNode
    cases s.node[h.val] with
    | none => trivial
    | some e =>
      simp only [Res.bind_ok]
      split
      · exact rfl
      unfold follow
      cases e.left with
      | none => trivial
      | some l =>
        refine (ih l _ s).bind (fun _ k => k) fun _ t _ k => ?_
        cases e.right with
        | none => trivial
        | some r => exact (ih r _ t).imp fun _ => k.trans

theorem codesBody_frame (s : State) : (codesBody s).All (CodesFrame s) := by
  unfold codesBody follow
  split
  · exact CodesFrame.refl s
  cases s.root with
  | none => trivial
  | some r =>
    exact ((codesWalk_frame _ r [] _).imp fun _ h => CodesFrame.trans
      (t := (s.withFlags s.ftV s.treeV false).withCt (Vector.replicate 257 (some { v := false, code := [] }))) rfl h).bind
        (fun _ h => h) fun _ t _ h => h.trans rfl

end

end Sys2Proof.Machine
end

section
/-! PROOF. How far a command reaches on the host's side (10_state.md R37, R40 to R42): the source stays, `SPOS` passes no byte
the source does not hold, and the sink only grows. -/

namespace Sys2Proof.Machine

/-! ## A relation along an operation -/

/-- Wherever the operation ends, the state is related to the one it began in. -/
def Within {α : Type} (R : State → State → Prop) (f : State → Res α) : Prop := ∀ s, (f s).All (R s)

section
variable {α β : Type} {R : State → State → Prop} {f g : State → Res α}

theorem Within.bind {k : α → State → Res β} (hf : Within R f) (htrans : ∀ {s t u}, R s t → R t u → R s u)
    (hk : ∀ a, Within R (k a)) : Within R fun s => (f s).bind k :=
  fun s => (hf s).bind (fun _ h => h) fun a t _ h => (hk a t).imp fun _ => htrans h

theorem Within.ite {c : State → Prop} [∀ s, Decidable (c s)] (hf : Within R f) (hg : Within R g) :
    Within R fun s => if c s then f s else g s := by
  intro s
  dsimp only
  split
  · exact hf s
  · exact hg s

theorem Within.imp {Q : State → State → Prop} (hf : Within Q f) (h : ∀ {s t}, Q s t → R s t) : Within R f :=
  fun s => (hf s).imp fun _ => h

end

/-- The source is as it was, `SPOS` moved within it, if at all, and the sink has only grown. -/
structure Advances (s t : State) : Prop where
  src : t.src = s.src
  spos : t.spos ≤ max s.spos s.src.data.length
  snk : s.snk.data <+: t.snk.data

section
variable {α β : Type} {s t u : State} {f g : State → Res α}

theorem Advances.of_eq (hsrc : t.src = s.src) (hspos : t.spos = s.spos) (hsnk : t.snk = s.snk) : Advances s t :=
  ⟨hsrc, hspos ▸ le_max_left _ _, hsnk ▸ List.prefix_rfl⟩

theorem Advances.refl (s : State) : Advances s s := .of_eq rfl rfl rfl

theorem Advances.trans (h : Advances s t) (k : Advances t u) : Advances s u where
  src := k.src.trans h.src
  spos := by
    have hs := h.spos
    have ks := k.spos
    rw [h.src] at ks
    omega
  snk := h.snk.trans k.snk

theorem Advances.after {r : Res α} (hr : r.All (Advances t)) (h : Advances s t) : r.All (Advances s) := hr.imp fun _ => h.trans

theorem Within.pure (a : α) : Within Advances fun s => .ok a s := fun s => Advances.refl s

theorem Within.raise (e : Failure) : Within Advances fun s => (.raise e s : Res α) := fun s => Advances.refl s

theorem Within.stuck (e : Fault) : Within Advances fun _ => (.stuck e : Res α) := fun _ => trivial

theorem Within.chain {k : α → State → Res β} (hf : Within Advances f) (hk : ∀ a, Within Advances (k a)) :
    Within Advances fun s => (f s).bind k := hf.bind Advances.trans hk

theorem Within.onEnd (e : Failure) (hf : Within Advances f) : Within Advances fun s => (f s).onEnd e :=
  fun s => (hf s).onEnd e

theorem Within.finally {g : State → State} (hf : Within Advances f) (hg : ∀ s, Advances s (g s)) :
    Within Advances fun s => (f s).finally g :=
  fun s => (hf s).finally fun t h => h.trans (hg t)

theorem ArenaFrame.advances (h : ArenaFrame s t) : Advances s t := by rw [h]; exact .of_eq rfl rfl rfl

theorem BuildFrame.advances (h : BuildFrame s t) : Advances s t := by rw [h]; exact .of_eq rfl rfl rfl

theorem CodesFrame.advances (h : CodesFrame s t) : Advances s t := by rw [h]; exact .of_eq rfl rfl rfl

end

/-! ## The streams -/

theorem srcPull_advances : Within Advances srcPull := by
  intro s
  rcases srcPull_cases s with ⟨h, -⟩ | ⟨h, -⟩ | ⟨b, h, -, -, hb⟩ <;> rw [h]
  · exact .refl s
  · exact .refl s
  · have hlt : s.spos < s.src.data.length := (List.getElem?_eq_some_iff.mp hb).1
    exact ⟨rfl, by simp only [State.withSpos_spos]; omega, List.prefix_rfl⟩

theorem srcRewind_advances : Within Advances srcRewind := by
  unfold srcRewind
  exact .ite (.raise _) fun s => ⟨rfl, Nat.zero_le _, List.prefix_rfl⟩

theorem snkPush_advances (b : Byte) : Within Advances (snkPush b) := by
  intro s
  rcases snkPush_cases b s with ⟨h, -⟩ | ⟨h, -⟩ <;> rw [h]
  · exact .refl s
  · exact ⟨rfl, le_max_left _ _, List.prefix_append _ _⟩

/-! ## The channel -/

theorem takeBit_advances : Within Advances takeBit := fun _ => .of_eq rfl rfl rfl

theorem readBit_advances : Within Advances readBit := by
  unfold readBit
  refine .ite (.raise _) (.ite (srcPull_advances.chain fun r => ?_) takeBit_advances)
  cases r with
  | none => exact .raise _
  | some b => exact fun s => .of_eq rfl rfl rfl

theorem readBits_advances (n : Nat) (v : Byte) : Within Advances (readBits n v) := by
  induction n generalizing v with
  | zero => exact .pure v
  | succ n ih => exact readBit_advances.chain fun b => ih (setBit v n b)

theorem readToken_advances : Within Advances readToken := by
  refine readBit_advances.chain fun f => ?_
  cases f
  · exact .pure _
  refine readBit_advances.chain fun t => ?_
  cases t
  · exact (readBits_advances 8 0#8).chain fun _ => .pure _
  · exact .pure _

theorem writeBit_advances (b : Bool) : Within Advances (writeBit b) := by
  intro s
  unfold writeBit
  split
  · exact .refl s
  split
  · dsimp only
    split
    · exact Advances.after (snkPush_advances _ _) (.of_eq rfl rfl rfl)
    · exact .of_eq rfl rfl rfl
  · trivial

theorem writeBits_advances (l : List Bool) : Within Advances (writeBits l) := by
  induction l with
  | nil => exact .pure ()
  | cons b l ih => exact (writeBit_advances b).chain fun _ => ih

theorem flush_advances : Within Advances flush := by
  unfold flush
  exact .ite (fun s => Advances.after (snkPush_advances _ _) (.of_eq rfl rfl rfl)) (.pure ())

theorem closeChan_advances (s : State) : Advances s (closeChan s) := .of_eq rfl rfl rfl

theorem closeBody_advances : Within Advances closeBody := by
  unfold closeBody
  exact .ite (flush_advances.finally closeChan_advances) closeChan_advances

theorem release_advances (s : State) : Advances s (release s) := by
  unfold release
  split
  · have h := flush_advances s
    cases hf : flush s with
    | ok a t => exact (h.of_eq_ok hf).trans (closeChan_advances t)
    | raise f t => exact (h.of_eq_raise hf).trans (closeChan_advances t)
    | stuck e => exact closeChan_advances s
  · exact closeChan_advances s

theorem openrBody_advances : Within Advances openrBody := by
  unfold openrBody
  exact .ite (.raise _) (.ite (.raise _) (srcRewind_advances.chain fun _ _ => .of_eq rfl rfl rfl))

theorem openwBody_advances : Within Advances openwBody := by
  unfold openwBody
  exact .ite (.raise _) (.ite (.raise _) fun _ => .of_eq rfl rfl rfl)

/-! ## The tables and the header -/

theorem follow_advances (h : Handle) : Within Advances (follow h) := by
  cases h with
  | none => exact .stuck _
  | some h => exact .pure h

theorem readNode_advances (h : NodeIx) : Within Advances (readNode h) := by
  intro s
  unfold readNode
  split
  · trivial
  · exact .refl s

theorem readCt_advances (x : Sym) : Within Advances (readCt x) := by
  intro s
  unfold readCt
  split
  · trivial
  · exact .refl s

theorem readFt_advances (v : Byte) : Within Advances (readFt v) := by
  intro s
  unfold readFt
  split
  · trivial
  · exact .refl s

theorem freqLoop_advances (n : Nat) : Within Advances (freqLoop n) := by
  induction n with
  | zero => exact .stuck _
  | succ n ih =>
    refine srcPull_advances.chain fun r => ?_
    cases r with
    | none => exact .pure ()
    | some b => exact (readFt_advances b).chain fun c s => Advances.after (ih _) (.of_eq rfl rfl rfl)

theorem freqBody_advances : Within Advances freqBody := by
  unfold freqBody
  refine .ite (.raise _) fun s => Advances.after (t := s.withFlags false false false) ?_ (.of_eq rfl rfl rfl)
  refine (srcRewind_advances.chain (k := fun _ s => (freqLoop (s.src.data.length + 1)
    (s.withFt (Vector.replicate 256 (some 0)))).bind fun _ s => .ok () (s.withFlags true s.treeV s.ctV)) fun _ s => ?_) _
  refine Advances.after (t := s.withFt (Vector.replicate 256 (some 0))) ?_ (.of_eq rfl rfl rfl)
  exact ((freqLoop_advances _).chain (k := fun _ s => .ok () (s.withFlags true s.treeV s.ctV))
    fun _ _ => .of_eq rfl rfl rfl) _

theorem buildBody_advances : Within Advances buildBody := Within.imp buildBody_frame BuildFrame.advances

theorem codesBody_advances : Within Advances codesBody := Within.imp codesBody_frame CodesFrame.advances

theorem serWalk_advances (n : Nat) (h : NodeIx) : Within Advances (serWalk n h) := by
  induction n generalizing h with
  | zero => exact .stuck _
  | succ n ih =>
    refine (readNode_advances h).chain fun e => ?_
    split
    · exact writeBits_advances _
    · exact (writeBits_advances _).chain fun _ => (follow_advances _).chain fun l => (ih l).chain fun _ =>
        (follow_advances _).chain fun r => ih r

theorem sertreeBody_advances : Within Advances sertreeBody := by
  unfold sertreeBody
  refine .ite (.raise _) (.ite (.raise _) fun s => ?_)
  exact ((follow_advances s.root).chain fun r => serWalk_advances maxFrames r) s

theorem parseToken_advances (tok : Token) (p : HeaderParse) : Within Advances (parseToken tok p) :=
  Within.imp (parseToken_frame tok p) ArenaFrame.advances

theorem parseLoop_advances (n : Nat) (p : HeaderParse) : Within Advances (parseLoop n p) := by
  induction n generalizing p with
  | zero => exact .stuck _
  | succ n ih =>
    refine readToken_advances.chain fun tok => (parseToken_advances tok p).chain fun q => ?_
    split
    · exact .pure _
    · exact ih q.1

theorem parseEnd_advances (p : HeaderParse) (r : NodeIx) : Within Advances (parseEnd p r) := by
  intro s
  unfold parseEnd
  split
  · exact .of_eq rfl rfl rfl
  · exact .refl s

theorem destreeBody_advances : Within Advances destreeBody := by
  unfold destreeBody
  refine .ite (.raise _) fun s => Advances.after (t := clearTree s) ?_ (.of_eq rfl rfl rfl)
  exact (((parseLoop_advances maxTokens .start).onEnd .corruptHeader).chain fun q => parseEnd_advances q.1 q.2) _

/-! ## The encoder and the decoder -/

theorem putCode_advances (x : Sym) : Within Advances (putCode x) := (readCt_advances x).chain fun e => writeBits_advances e.code

theorem putsymBody_advances (v : Byte) : Within Advances (putsymBody v) := by
  unfold putsymBody
  refine .ite (.raise _) (.ite (.raise _) ((readCt_advances _).chain fun e => ?_))
  split
  · exact putCode_advances _
  · exact .raise _

theorem puttermBody_advances : Within Advances puttermBody := by
  unfold puttermBody
  exact .ite (.raise _) (.ite (.raise _) (putCode_advances _))

theorem encodeLoop_advances (n : Nat) : Within Advances (encodeLoop n) := by
  induction n with
  | zero => exact .stuck _
  | succ n ih =>
    refine srcPull_advances.chain fun r => ?_
    cases r with
    | none => exact .pure ()
    | some b => exact (putsymBody_advances b).chain fun _ => ih

theorem compressSteps_advances : Within Advances compressSteps :=
  freqBody_advances.chain fun _ => buildBody_advances.chain fun _ => codesBody_advances.chain fun _ =>
    openwBody_advances.chain fun _ => sertreeBody_advances.chain fun _ => srcRewind_advances.chain fun _ s =>
      ((encodeLoop_advances _).chain fun _ => puttermBody_advances.chain fun _ => closeBody_advances) s

theorem macroReady_advances : Within Advances macroReady := by
  unfold macroReady
  exact .ite (.raise _) (.ite (.raise _) (.ite (.raise _) (.pure ())))

theorem compressBody_advances : Within Advances compressBody :=
  macroReady_advances.chain fun _ => compressSteps_advances.finally fun s => (release_advances s).trans (.of_eq rfl rfl rfl)

theorem getWalk_advances (n : Nat) (h : NodeIx) : Within Advances (getWalk n h) := by
  induction n generalizing h with
  | zero => exact .stuck _
  | succ n ih =>
    refine (readNode_advances h).chain fun e => ?_
    split
    · exact .pure _
    · exact (readBit_advances.onEnd _).chain fun b => (follow_advances _).chain fun g => ih g

theorem getsymBody_advances : Within Advances getsymBody := by
  unfold getsymBody
  refine .ite (.raise _) (.ite (.raise _) fun s => ?_)
  exact ((follow_advances s.root).chain fun r => getWalk_advances maxFrames r) s

theorem decodeLoop_advances (n : Nat) : Within Advances (decodeLoop n) := by
  induction n with
  | zero => exact .stuck _
  | succ n ih =>
    refine getsymBody_advances.chain fun x => ?_
    split
    · exact .pure ()
    · exact (snkPush_advances _).chain fun _ => ih

theorem decompressSteps_advances : Within Advances decompressSteps :=
  openrBody_advances.chain fun _ => destreeBody_advances.chain fun _ s =>
    ((decodeLoop_advances _).chain fun _ => closeBody_advances) s

theorem decompressBody_advances : Within Advances decompressBody :=
  macroReady_advances.chain fun _ => decompressSteps_advances.finally fun _ => .of_eq rfl rfl rfl

theorem Within.zero {f : State → Res Unit} (hf : Within Advances f) : Within Advances fun s => (f s).zero :=
  hf.chain fun _ => .pure _

theorem commandBody?_advances : ∀ {i : Instr} {body : State → Res Sym}, commandBody? i = some body → Within Advances body
  | .openr, _, rfl => openrBody_advances.zero
  | .openw, _, rfl => openwBody_advances.zero
  | .rdbit, _, rfl => readBit_advances.chain fun _ => .pure _
  | .rdbyte, _, rfl => (readBits_advances 8 0#8).chain fun _ => .pure _
  | .wrbit b, _, rfl => (writeBit_advances b).zero
  | .wrbyte v, _, rfl => (writeBits_advances (byteBits v)).zero
  | .close, _, rfl => closeBody_advances.zero
  | .freq, _, rfl => freqBody_advances.zero
  | .build, _, rfl => buildBody_advances.zero
  | .codes, _, rfl => codesBody_advances.zero
  | .sertree, _, rfl => sertreeBody_advances.zero
  | .destree, _, rfl => destreeBody_advances.zero
  | .putsym v, _, rfl => (putsymBody_advances v).zero
  | .putterm, _, rfl => puttermBody_advances.zero
  | .getsym, _, rfl => getsymBody_advances
  | .compress, _, rfl => compressBody_advances.zero
  | .decompress, _, rfl => decompressBody_advances.zero

end Sys2Proof.Machine
end

section
/-! PROOF. Which command reaches which part of the state (10_state.md R22, R29; 20_memory.md R51), and that no one reaches
the host's side (10_state.md R40 to R42). -/

namespace Sys2Proof.Machine

/-- The instruction leaves to their owners the tables, the flags, `SPOS`, the sink and the channel: the rows of R22, R29 and
R51, for an instruction that is a command. -/
def Owned (i : Instr) (s t : State) : Prop :=
  ((i ∉ [.freq, .compress] → t.ft = s.ft) ∧
    (i ∉ [.build, .destree, .compress, .decompress] → KeepsTree s t) ∧
    (i ∉ [.codes, .compress] → t.ct = s.ct) ∧
    (i ∉ [.freq, .compress, .decompress] → t.ftV = s.ftV) ∧
    (i ∉ [.freq, .build, .destree, .compress, .decompress] → t.treeV = s.treeV) ∧
    (i ∉ [.freq, .build, .codes, .destree, .compress, .decompress] → t.ctV = s.ctV)) ∧
  (i ∉ [.openr, .rdbit, .rdbyte, .freq, .destree, .getsym, .compress, .decompress] → t.spos = s.spos) ∧
  (i ∈ [.openr, .openw, .rdbit, .rdbyte, .freq, .build, .codes, .destree, .getsym] → t.snk = s.snk) ∧
  (i ∉ [.openr, .openw, .close, .compress, .decompress] → t.dir = s.dir) ∧
  (i ∈ [.freq, .build, .codes] → KeepsChannel s t)

section
variable {i : Instr} {s t : State}

theorem ReadFrame.owned (hi : i ∈ [.rdbit, .rdbyte, .getsym]) (h : ReadFrame s t) : Owned i s t := by
  simp only [List.mem_cons, List.not_mem_nil, or_false] at hi
  rw [h]
  rcases hi with rfl | rfl | rfl <;> simp [Owned, KeepsTree]

theorem WriteFrame.owned (hi : neededDir i = some .write) (h : WriteFrame s t) : Owned i s t := by
  rw [h]
  cases i with
  | wrbit b => simp [Owned, KeepsTree]
  | wrbyte v => simp [Owned, KeepsTree]
  | sertree => simp [Owned, KeepsTree]
  | putsym v => simp [Owned, KeepsTree]
  | putterm => simp [Owned, KeepsTree]
  | _ => simp [neededDir] at hi

theorem FreqFrame.owned (h : FreqFrame s t) : Owned .freq s t := by
  rw [h]; simp [Owned, KeepsTree, KeepsChannel]

theorem BuildFrame.owned (h : BuildFrame s t) : Owned .build s t := by
  rw [h]; simp [Owned, KeepsChannel]

theorem CodesFrame.owned (h : CodesFrame s t) : Owned .codes s t := by
  rw [h]; simp [Owned, KeepsTree, KeepsChannel]

theorem DestreeFrame.owned (h : DestreeFrame s t) : Owned .destree s t := by
  rw [h]; simp [Owned]

theorem openrBody_owned (s : State) : (openrBody s).All (Owned .openr s) := by
  unfold openrBody srcRewind
  split
  · simp [Res.All, Owned, KeepsTree]
  split
  · simp [Res.All, Owned, KeepsTree]
  · simp [Res.All, Owned, KeepsTree]

theorem openwBody_owned (s : State) : (openwBody s).All (Owned .openw s) := by
  unfold openwBody
  split
  · simp [Res.All, Owned, KeepsTree]
  split
  · simp [Res.All, Owned, KeepsTree]
  · simp [Res.All, Owned, KeepsTree]

theorem WriteFrame.owned_closeChan (h : WriteFrame s t) : Owned .close s (closeChan t) := by
  rw [h]; simp [Owned, KeepsTree, closeChan]

theorem closeBody_owned (s : State) : (closeBody s).All (Owned .close s) := by
  unfold closeBody
  split
  · exact (flush_frame s).finally fun _ => WriteFrame.owned_closeChan
  · exact (WriteFrame.refl s).owned_closeChan

/-- Neither the counts nor the codes are reached. -/
def KeepsFtCt (s t : State) : Prop := t.ft = s.ft ∧ t.ct = s.ct

theorem KeepsFtCt.trans {u : State} (h : KeepsFtCt s t) (k : KeepsFtCt t u) : KeepsFtCt s u := ⟨k.1.trans h.1, k.2.trans h.2⟩

theorem DestreeFrame.keepsFtCt (h : DestreeFrame s t) : KeepsFtCt s t := by rw [h]; exact ⟨rfl, rfl⟩

theorem WriteFrame.keepsFtCt (h : WriteFrame s t) : KeepsFtCt s t := by rw [h]; exact ⟨rfl, rfl⟩

theorem decodeLoop_keepsFtCt (n : Nat) : Within KeepsFtCt (decodeLoop n) := by
  induction n with
  | zero => exact fun _ => trivial
  | succ n ih =>
    refine (Within.imp getsymBody_frame fun h => h.parse.destree.keepsFtCt).bind KeepsFtCt.trans fun x => ?_
    split
    · exact fun _ => ⟨rfl, rfl⟩
    · exact (Within.imp (snkPush_frame _) WriteFrame.keepsFtCt).bind KeepsFtCt.trans fun _ => ih

theorem Owned.keepsFtCt (h : Owned i s t) (hft : i ∉ [.freq, .compress]) (hct : i ∉ [.codes, .compress]) :
    KeepsFtCt s t := by
  obtain ⟨⟨hf, -, hc, -⟩, -⟩ := h
  exact ⟨hf hft, hc hct⟩

theorem decompressBody_keepsFtCt : Within KeepsFtCt decompressBody := by
  have steps : Within KeepsFtCt decompressSteps := by
    refine (Within.imp openrBody_owned fun h => h.keepsFtCt (by decide) (by decide)).bind KeepsFtCt.trans fun _ => ?_
    refine (Within.imp destreeBody_frame DestreeFrame.keepsFtCt).bind KeepsFtCt.trans fun _ s => ?_
    exact ((decodeLoop_keepsFtCt _).bind KeepsFtCt.trans fun _ =>
      Within.imp closeBody_owned fun h => h.keepsFtCt (by decide) (by decide)) s
  unfold decompressBody macroReady
  refine Within.bind (.ite (fun _ => ⟨rfl, rfl⟩) (.ite (fun _ => ⟨rfl, rfl⟩) (.ite (fun _ => ⟨rfl, rfl⟩) fun _ => ⟨rfl, rfl⟩)))
    KeepsFtCt.trans fun _ s => (steps s).finally fun _ h => h

theorem KeepsFtCt.owned_decompress (h : KeepsFtCt s t) : Owned .decompress s t := by
  simp [Owned, h.1, h.2]

theorem owned_compress (s t : State) : Owned .compress s t := by simp [Owned]

theorem Res.All.zero {P : State → Prop} {r : Res Unit} (h : r.All P) : r.zero.All P := by cases r <;> exact h

theorem rdbit_frame : Within ReadFrame fun s => (readBit s).bind fun b s => .ok (bitSym b) s :=
  Within.bind readBit_frame ReadFrame.trans fun _ => ReadFrame.refl

theorem rdbyte_frame : Within ReadFrame fun s => (readByte s).bind fun v s => .ok (byteSym v) s :=
  Within.bind readByte_frame ReadFrame.trans fun _ => ReadFrame.refl

theorem puttermBody_frame : Within WriteFrame puttermBody := by
  unfold puttermBody
  exact .ite WriteFrame.refl (.ite WriteFrame.refl (putCode_frame TERM))

theorem commandBody?_owned : ∀ {i : Instr} {body : State → Res Sym}, commandBody? i = some body → Within (Owned i) body
  | .openr, _, rfl, s => (openrBody_owned s).zero
  | .openw, _, rfl, s => (openwBody_owned s).zero
  | .rdbit, _, rfl, s => (rdbit_frame s).imp fun _ => ReadFrame.owned (by simp)
  | .rdbyte, _, rfl, s => (rdbyte_frame s).imp fun _ => ReadFrame.owned (by simp)
  | .wrbit b, _, rfl, s => ((writeBit_frame b s).imp fun _ => WriteFrame.owned rfl).zero
  | .wrbyte v, _, rfl, s => ((writeBits_frame (byteBits v) s).imp fun _ => WriteFrame.owned rfl).zero
  | .close, _, rfl, s => (closeBody_owned s).zero
  | .freq, _, rfl, s => ((freqBody_frame s).imp fun _ => FreqFrame.owned).zero
  | .build, _, rfl, s => ((buildBody_frame s).imp fun _ => BuildFrame.owned).zero
  | .codes, _, rfl, s => ((codesBody_frame s).imp fun _ => CodesFrame.owned).zero
  | .sertree, _, rfl, s => ((sertreeBody_frame s).imp fun _ => WriteFrame.owned rfl).zero
  | .destree, _, rfl, s => ((destreeBody_frame s).imp fun _ => DestreeFrame.owned).zero
  | .putsym v, _, rfl, s => ((putsymBody_frame v s).imp fun _ => WriteFrame.owned rfl).zero
  | .putterm, _, rfl, s => ((puttermBody_frame s).imp fun _ => WriteFrame.owned rfl).zero
  | .getsym, _, rfl, s => (getsymBody_frame s).imp fun _ => ReadFrame.owned (by simp)
  | .compress, _, rfl, s => ((compressBody_advances s).imp fun t _ => owned_compress s t).zero
  | .decompress, _, rfl, s => ((decompressBody_keepsFtCt s).imp fun _ => KeepsFtCt.owned_decompress).zero

/-! ## The end of an instruction -/

/-- Where an instruction that is a command leaves the state: where its body does, but for the end it records (R222). -/
theorem exec_command_ends (hi : i.isCommand = true) (h : exec i s = .next t) :
    ∃ u, BodyFrame s u ∧ Advances s u ∧ Owned i s u ∧ ((∃ v, t = endOk v u) ∨ ∃ f, t = endFail f u) := by
  obtain ⟨body, hb, hends⟩ := exec_eq_next hi h
  have hadv := commandBody?_advances hb s
  have howned := commandBody?_owned hb s
  rcases hends with ⟨v, u, hu, hframe, rfl⟩ | ⟨f, u, hu, hframe, rfl⟩
  · exact ⟨u, hframe, hadv.of_eq_ok hu, howned.of_eq_ok hu, .inl ⟨v, rfl⟩⟩
  · exact ⟨u, hframe, hadv.of_eq_raise hu, howned.of_eq_raise hu, .inr ⟨f, rfl⟩⟩

/-- Where a token leaves the state: the arena with it, and the parse gone on, or the header ended (R171). -/
theorem exec_token_ends {tok : Token} (h : exec tok.instr s = .next t) :
    ∃ u, ArenaFrame s u ∧ ((∃ q, t = u.withHdr (some q)) ∨ (∃ r, t = endOk 0 ((u.withHdr none).rooted r)) ∨
      ∃ f, t = endFail f (u.withHdr none)) := by
  cases hh : s.hdr with
  | none => simp [exec_token, runToken, hh] at h
  | some p =>
    rw [exec_token_of_hdr hh] at h
    have hframe := parseToken_frame tok p s
    cases hr : parseToken tok p s with
    | stuck e => simp [hr, finishToken] at h
    | raise f u =>
      rw [hr, finishToken_raise] at h
      exact ⟨u, hframe.of_eq_raise hr, .inr (.inr ⟨f, (Host.Outcome.next.inj h).symm⟩)⟩
    | ok q u =>
      obtain ⟨q, _ | r⟩ := q
      · rw [hr, finishToken_more] at h
        exact ⟨u, hframe.of_eq_ok hr, .inl ⟨q, (Host.Outcome.next.inj h).symm⟩⟩
      · rw [hr] at h
        by_cases hterm : TERM ∈ q.seen
        · rw [finishToken_of_term hterm] at h
          exact ⟨u, hframe.of_eq_ok hr, .inr (.inl ⟨r, (Host.Outcome.next.inj h).symm⟩)⟩
        · rw [finishToken_of_no_term hterm] at h
          exact ⟨u, hframe.of_eq_ok hr, .inr (.inr ⟨_, (Host.Outcome.next.inj h).symm⟩)⟩

/-- What a token leaves alone, however it ends. -/
theorem exec_token_keeps {tok : Token} (h : exec tok.instr s = .next t) :
    t.cfg = s.cfg ∧ t.src = s.src ∧ t.inbox = s.inbox ∧ t.snk = s.snk ∧ s.resp <+: t.resp ∧ t.spos = s.spos ∧
      KeepsChannel s t ∧ t.ft = s.ft ∧ t.ct = s.ct ∧ t.ftV = s.ftV ∧ t.ctV = s.ctV := by
  obtain ⟨u, hu, ⟨q, rfl⟩ | ⟨r, rfl⟩ | ⟨f, rfl⟩⟩ := exec_token_ends h
  all_goals
    rw [hu]
    simp [KeepsChannel, endOk, endFail, State.rooted]

end

/-! ## The obligations -/

/-- Settles O54: a command's body keeps the host's side and its end appends one response; a token reaches the arena. -/
theorem instructionsLeaveTheHostSide : Obligations.InstructionsLeaveTheHostSide := by
  intro i s t h
  cases hi : i.isCommand with
  | true =>
    obtain ⟨u, hu, hadv, -, ⟨v, rfl⟩ | ⟨f, rfl⟩⟩ := exec_command_ends hi h
    · exact ⟨hu.cfg, hu.src, hu.inbox, hu.snkPresent, hu.snkCap, hadv.snk, ⟨_, congrArg (· ++ _) hu.resp.symm⟩, fun _ => hu.hdr⟩
    · exact ⟨hu.cfg, hu.src, hu.inbox, hu.snkPresent, hu.snkCap, hadv.snk, ⟨_, congrArg (· ++ _) hu.resp.symm⟩, fun _ => hu.hdr⟩
  | false =>
    obtain ⟨tok, rfl⟩ := exists_token_of_not_command hi
    obtain ⟨hcfg, hsrc, hinbox, hsnk, hresp, -⟩ := exec_token_keeps h
    rw [hsnk]
    exact ⟨hcfg, hsrc, hinbox, rfl, rfl, List.prefix_rfl, hresp, nofun⟩

/-- Settles O55: a command's body leaves the tables to their owners, and a token reaches the arena and `TREE_V`. -/
theorem tablesAreWrittenByTheirOwners : Obligations.TablesAreWrittenByTheirOwners := by
  intro i s t h
  cases hi : i.isCommand with
  | true =>
    obtain ⟨u, -, -, ⟨⟨hft, htree, hct, hftV, htreeV, hctV⟩, -⟩, ⟨v, rfl⟩ | ⟨f, rfl⟩⟩ := exec_command_ends hi h
    · exact ⟨hft, fun _ => htree, hct, hftV, fun _ => htreeV, hctV⟩
    · exact ⟨hft, fun _ => htree, hct, hftV, fun _ => htreeV, hctV⟩
  | false =>
    obtain ⟨tok, rfl⟩ := exists_token_of_not_command hi
    obtain ⟨-, -, -, -, -, -, -, hft, hct, hftV, hctV⟩ := exec_token_keeps h
    exact ⟨fun _ => hft, nofun, fun _ => hct, fun _ => hftV, nofun, fun _ => hctV⟩

/-- Settles O56: a command's body leaves the streams and the channel to their users, and a token reaches neither. -/
theorem streamsAreReachedByTheirUsers : Obligations.StreamsAreReachedByTheirUsers := by
  intro i s t h
  cases hi : i.isCommand with
  | true =>
    have hint : i ≠ .int := by rintro rfl; simp [Instr.isCommand, Instr.token?] at hi
    have hleafb (b : Byte) : i ≠ .leafb b := by rintro rfl; simp [Instr.isCommand, Instr.token?] at hi
    have hleaft : i ≠ .leaft := by rintro rfl; simp [Instr.isCommand, Instr.token?] at hi
    obtain ⟨u, -, -, ⟨-, hspos, hsnk, hdir, hchan⟩, hend⟩ := exec_command_ends hi h
    have hsnk' : i ∈ [.openr, .openw, .rdbit, .rdbyte, .freq, .build, .codes, .destree, .getsym, .int, .leaft] →
        u.snk = s.snk := fun hmem => hsnk (by simpa [hint, hleaft] using hmem)
    have hchan' : i ∈ [.freq, .build, .codes, .int, .leaft] → KeepsChannel s u :=
      fun hmem => hchan (by simpa [hint, hleaft] using hmem)
    rcases hend with ⟨v, rfl⟩ | ⟨f, rfl⟩
    · exact ⟨hspos, hsnk', fun ⟨b, hb⟩ => absurd hb (hleafb b), hdir, hchan', fun ⟨b, hb⟩ => absurd hb (hleafb b)⟩
    · exact ⟨hspos, hsnk', fun ⟨b, hb⟩ => absurd hb (hleafb b), hdir, hchan', fun ⟨b, hb⟩ => absurd hb (hleafb b)⟩
  | false =>
    obtain ⟨tok, rfl⟩ := exists_token_of_not_command hi
    obtain ⟨-, -, -, hsnk, -, hspos, hchan, -⟩ := exec_token_keeps h
    exact ⟨fun _ => hspos, fun _ => hsnk, fun _ => hsnk, fun _ => hchan.1, fun _ => hchan, fun _ => hchan⟩

end Sys2Proof.Machine
end

section
/-! PROOF. `COMPRESS` and `DECOMPRESS` test before they change anything, and release on every path (45_encoder.md R189, R191;
46_decoder.md R203, R205; 60_exceptions.md R223, R224). -/

namespace Sys2Proof.Machine

section
variable {s t : State}

theorem macroReady_of_open (hd : s.dir ≠ .closed) : macroReady s = .raise .notReady s := if_pos hd

theorem macroReady_of_absent (hd : s.dir = .closed) (h : s.src.present = false ∨ s.snk.present = false) :
    macroReady s = .raise .ioError s := by
  rw [macroReady, if_neg (by simp [hd])]
  split
  · rfl
  · exact if_pos (h.resolve_left ‹_›)

theorem macroReady_of_ready (hd : s.dir = .closed) (hsrc : s.src.present = true) (hsnk : s.snk.present = true) :
    macroReady s = .ok () s := by
  simp [macroReady, hd, hsrc, hsnk]

/-- What the `finally` of `COMPRESS` or `DECOMPRESS` leaves: a closed empty channel and no flag set (R189, R203, R224). -/
structure Released (t : State) : Prop where
  dir : t.dir = .closed
  buf : t.buf = 0#8
  cnt : t.cnt.val = 0
  ftV : t.ftV = false
  treeV : t.treeV = false
  ctV : t.ctV = false

theorem closeChan_released (u : State) : Released ((closeChan u).withFlags false false false) := by constructor <;> rfl

theorem release_eq_closeChan (u : State) : ∃ v, release u = closeChan v := by
  unfold release
  split
  · cases flush u with
    | ok a v => exact ⟨v, rfl⟩
    | raise f v => exact ⟨v, rfl⟩
    | stuck e => exact ⟨u, rfl⟩
  · exact ⟨u, rfl⟩

theorem release_released (u : State) : Released ((release u).withFlags false false false) := by
  obtain ⟨v, hv⟩ := release_eq_closeChan u
  exact hv ▸ closeChan_released v

theorem Res.finally_released {α : Type} {r : Res α} {g : State → State} (hg : ∀ u, Released (g u)) :
    (r.finally g).All Released := by
  cases r with
  | ok a u => exact hg u
  | raise f u => exact hg u
  | stuck e => trivial

theorem compressBody_eq (hd : s.dir = .closed) (hsrc : s.src.present = true) (hsnk : s.snk.present = true) :
    compressBody s = (compressSteps s).finally fun u => (release u).withFlags false false false := by
  rw [compressBody, macroReady_of_ready hd hsrc hsnk, Res.bind_ok]

theorem decompressBody_eq (hd : s.dir = .closed) (hsrc : s.src.present = true) (hsnk : s.snk.present = true) :
    decompressBody s = (decompressSteps s).finally fun u => (closeChan u).withFlags false false false := by
  rw [decompressBody, macroReady_of_ready hd hsrc hsnk, Res.bind_ok]

/-- A first scan that meets the error position ends `COMPRESS` before the channel is opened (R191). -/
theorem compressBody_of_error {e : Nat} (hd : s.dir = .closed) (hsrc : s.src.present = true) (hsnk : s.snk.present = true)
    (he : s.src.errAt = some e) (hle : e ≤ s.src.data.length) :
    compressBody s = .raise .ioError ((closeChan (s.flagsCleared.counted e)).withFlags false false false) := by
  rw [compressBody_eq hd hsrc hsnk, compressSteps, freqBody_of_error (by simp [hd]) hsrc he hle, Res.bind_raise,
    Res.finally_raise, release, if_neg]
  simp [State.counted, State.flagsCleared, hd]

end

/-- Settles O46: each failing test raises on the state as it stands, and the first scan comes before anything is written. -/
theorem macrosTestBeforeTheyChange : Obligations.MacrosTestBeforeTheyChange := by
  refine ⟨fun s i hi => ⟨fun hd => ?_, fun hd habs => ?_⟩, fun s e hd hsrc hsnk he hle => ?_⟩
  · refine ⟨_, exec_of_wrong_dir (n := .closed) ?_ hd, endFail_onlyFails _ s⟩
    rcases hi with rfl | rfl <;> rfl
  · refine ⟨endFail .ioError s, ?_, endFail_onlyFails _ s⟩
    rcases hi with rfl | rfl
    · exact finishUnit_of_eq_raise (by rw [compressBody, macroReady_of_absent hd habs, Res.bind_raise])
    · exact finishUnit_of_eq_raise (by rw [decompressBody, macroReady_of_absent hd habs, Res.bind_raise])
  · have hbody := compressBody_of_error hd hsrc hsnk he hle
    have hframe := (compressBody_bodyFrame s).of_eq_raise hbody
    exact ⟨_, finishUnit_of_eq_raise hbody, hframe.endsFailed _, rfl, rfl, rfl, rfl, rfl, rfl, rfl, rfl,
      hframe.cfg, hframe.src, hframe.inbox, hframe.hdr⟩

/-- Settles O47: both commands end in their `finally`. -/
theorem macrosReleaseOnEveryPath : Obligations.MacrosReleaseOnEveryPath := by
  intro s t i hi hd hsrc hsnk h
  have hcmd : i.isCommand = true := by rcases hi with rfl | rfl <;> rfl
  obtain ⟨body, hb, hends⟩ := exec_eq_next hcmd h
  have hadv := commandBody?_advances hb s
  have hrel : (body s).All Released := by
    rcases hi with rfl | rfl <;> cases hb
    · exact (compressBody_eq hd hsrc hsnk ▸ Res.finally_released release_released : (compressBody s).All Released).zero
    · exact (decompressBody_eq hd hsrc hsnk ▸ Res.finally_released closeChan_released : (decompressBody s).All Released).zero
  rcases hends with ⟨v, u, hu, hframe, rfl⟩ | ⟨f, u, hu, hframe, rfl⟩
  · obtain ⟨hdir, hbuf, hcnt, hftV, htreeV, hctV⟩ := hrel.of_eq_ok hu
    exact ⟨hdir, hbuf, hcnt, hftV, htreeV, hctV, (hadv.of_eq_ok hu).snk, hframe.cfg, hframe.src, hframe.inbox, hframe.hdr⟩
  · obtain ⟨hdir, hbuf, hcnt, hftV, htreeV, hctV⟩ := hrel.of_eq_raise hu
    exact ⟨hdir, hbuf, hcnt, hftV, htreeV, hctV, (hadv.of_eq_raise hu).snk, hframe.cfg, hframe.src, hframe.inbox, hframe.hdr⟩

end Sys2Proof.Machine
end

section
/-! PROOF. Every step keeps the invariants of the channel (10_state.md R27). -/

namespace Sys2Proof.Machine

/-- If the channel's invariants held, they still do. -/
def ChannelKept (s t : State) : Prop := ChannelOk s → ChannelOk t

section
variable {α β : Type} {s t u : State} {f : State → Res α}

theorem ChannelKept.refl (s : State) : ChannelKept s s := id

theorem ChannelKept.trans (h : ChannelKept s t) (k : ChannelKept t u) : ChannelKept s u := k ∘ h

theorem KeepsChannel.kept (h : KeepsChannel s t) : ChannelKept s t := by
  obtain ⟨hd, hb, hc⟩ := h
  intro hs
  simpa only [ChannelOk, hd, hb, hc] using hs

theorem FreqFrame.kept (h : FreqFrame s t) : ChannelKept s t := by rw [h]; exact id

theorem BuildFrame.kept (h : BuildFrame s t) : ChannelKept s t := by rw [h]; exact id

theorem CodesFrame.kept (h : CodesFrame s t) : ChannelKept s t := by rw [h]; exact id

theorem ChannelOk.of_closed (hd : t.dir = .closed) (hb : t.buf = 0#8) (hc : t.cnt.val = 0) : ChannelOk t :=
  ⟨fun _ => ⟨hb, hc⟩, by simp [hd], by simp [hd]⟩

theorem ChannelOk.of_read (hd : t.dir = .read) (hc : t.cnt.val ≤ 7) : ChannelOk t :=
  ⟨by simp [hd], by simp [hd], fun _ => hc⟩

theorem Released.channelOk (h : Released t) : ChannelOk t := .of_closed h.dir h.buf h.cnt

theorem Within.kept_bind {k : α → State → Res β} (hf : Within ChannelKept f) (hk : ∀ a, Within ChannelKept (k a)) :
    Within ChannelKept fun s => (f s).bind k := hf.bind ChannelKept.trans hk

/-! ## Reading -/

theorem readBit_kept : Within ChannelKept readBit := by
  intro s
  rcases readBit_cases s with ⟨f, h, -⟩ | ⟨hd, hc, h⟩ | ⟨hd, hc, b, -, h⟩ <;> rw [h]
  · exact .refl s
  · exact fun hs => .of_read hd (by have := hs.2.2 hd; simp only [State.withBuf_cnt]; omega)
  · exact fun _ => .of_read hd (by simp)

theorem readBits_kept (n : Nat) (v : Byte) : Within ChannelKept (readBits n v) := by
  induction n generalizing v with
  | zero => exact ChannelKept.refl
  | succ n ih => exact readBit_kept.kept_bind fun b => ih (setBit v n b)

theorem readToken_kept : Within ChannelKept readToken := by
  refine readBit_kept.kept_bind fun f => ?_
  cases f
  · exact ChannelKept.refl
  refine readBit_kept.kept_bind fun t => ?_
  cases t
  · exact (readBits_kept 8 0#8).kept_bind fun _ => ChannelKept.refl
  · exact ChannelKept.refl

theorem ArenaFrame.kept (h : ArenaFrame s t) : ChannelKept s t := (h.keeps s.hdr).2.1.kept

theorem parseLoop_kept (n : Nat) (p : HeaderParse) : Within ChannelKept (parseLoop n p) := by
  induction n generalizing p with
  | zero => exact fun _ => trivial
  | succ n ih =>
    refine readToken_kept.kept_bind fun tok => (Within.imp (parseToken_frame tok p) ArenaFrame.kept).kept_bind fun q => ?_
    split
    · exact ChannelKept.refl
    · exact ih q.1

theorem destreeBody_kept : Within ChannelKept destreeBody := by
  unfold destreeBody
  refine .ite ChannelKept.refl fun s => ?_
  refine ((parseLoop_kept maxTokens .start (clearTree s)).onEnd _).bind (fun _ h => h) fun q t _ h => ?_
  unfold parseEnd
  split
  · exact h
  · exact h

theorem getWalk_kept (n : Nat) (h : NodeIx) : Within ChannelKept (getWalk n h) := by
  induction n generalizing h with
  | zero => exact fun _ => trivial
  | succ n ih =>
    refine Within.kept_bind (fun s => ?_) fun e => ?_
    · unfold readNode
      split
      · trivial
      · exact .refl s
    split
    · exact ChannelKept.refl
    refine Within.kept_bind (fun s => (readBit_kept s).onEnd _) fun b => Within.kept_bind (fun s => ?_) ih
    unfold follow
    split
    · trivial
    · exact .refl s

theorem getsymBody_kept : Within ChannelKept getsymBody := by
  unfold getsymBody
  refine .ite ChannelKept.refl (.ite ChannelKept.refl fun s => ?_)
  unfold follow
  split
  · trivial
  · exact getWalk_kept _ _ s

/-! ## Writing -/

theorem writeBit_kept (b : Bool) : Within ChannelKept (writeBit b) := by
  intro s
  by_cases hd : s.dir = .write
  · by_cases hs : ChannelOk s
    · exact (writeBit_channelOk b hd hs).imp fun _ h _ => h
    · exact (writeBit_frame b s).imp fun _ _ h => absurd h hs
  · rw [writeBit, if_pos hd]
    exact .refl s

theorem writeBits_kept (l : List Bool) : Within ChannelKept (writeBits l) := by
  induction l with
  | nil => exact ChannelKept.refl
  | cons b l ih => exact (writeBit_kept b).kept_bind fun _ => ih

theorem follow_kept (h : Handle) : Within ChannelKept (follow h) := by
  cases h with
  | none => exact fun _ => trivial
  | some h => exact ChannelKept.refl

theorem readNode_kept (h : NodeIx) : Within ChannelKept (readNode h) := by
  intro s
  unfold readNode
  split
  · trivial
  · exact .refl s

theorem serWalk_kept (n : Nat) (h : NodeIx) : Within ChannelKept (serWalk n h) := by
  induction n generalizing h with
  | zero => exact fun _ => trivial
  | succ n ih =>
    refine (readNode_kept h).kept_bind fun e => ?_
    split
    · exact writeBits_kept _
    · exact (writeBits_kept _).kept_bind fun _ => (follow_kept _).kept_bind fun l => (ih l).kept_bind fun _ =>
        (follow_kept _).kept_bind fun r => ih r

theorem sertreeBody_kept : Within ChannelKept sertreeBody := by
  unfold sertreeBody
  refine .ite ChannelKept.refl (.ite ChannelKept.refl fun s => ?_)
  exact ((follow_kept s.root).kept_bind fun r => serWalk_kept maxFrames r) s

theorem readCt_kept (x : Sym) : Within ChannelKept (readCt x) := by
  intro s
  unfold readCt
  split
  · trivial
  · exact .refl s

theorem putCode_kept (x : Sym) : Within ChannelKept (putCode x) := (readCt_kept x).kept_bind fun e => writeBits_kept e.code

theorem putsymBody_kept (v : Byte) : Within ChannelKept (putsymBody v) := by
  unfold putsymBody
  refine .ite ChannelKept.refl (.ite ChannelKept.refl ((readCt_kept _).kept_bind fun e => ?_))
  split
  · exact putCode_kept _
  · exact ChannelKept.refl

theorem puttermBody_kept : Within ChannelKept puttermBody := by
  unfold puttermBody
  exact .ite ChannelKept.refl (.ite ChannelKept.refl (putCode_kept TERM))

/-! ## Opening and closing -/

theorem closeChan_channelOk (s : State) : ChannelOk (closeChan s) := .of_closed rfl rfl rfl

theorem closeBody_kept : Within ChannelKept closeBody := by
  intro s
  unfold closeBody
  split
  · exact (flush_frame s).finally fun u _ _ => closeChan_channelOk u
  · exact fun _ => closeChan_channelOk s

theorem openrBody_kept : Within ChannelKept openrBody := by
  intro s
  unfold openrBody srcRewind
  split
  · exact .refl s
  split
  · exact .refl s
  · exact fun _ => .of_read rfl (by simp)

theorem openwBody_kept : Within ChannelKept openwBody := by
  intro s
  unfold openwBody
  split
  · exact .refl s
  split
  · exact .refl s
  · exact fun _ => ⟨by simp, by simp, by simp⟩

theorem macroReady_kept : Within ChannelKept macroReady := by
  unfold macroReady
  exact .ite ChannelKept.refl (.ite ChannelKept.refl (.ite ChannelKept.refl ChannelKept.refl))

theorem Within.kept_of_released {g : State → State} (hg : ∀ u, Released (g u)) :
    Within ChannelKept fun s => (f s).finally g :=
  fun _ => (Res.finally_released hg).imp fun _ h _ => h.channelOk

theorem compressBody_kept : Within ChannelKept compressBody :=
  macroReady_kept.kept_bind fun _ => .kept_of_released release_released

theorem decompressBody_kept : Within ChannelKept decompressBody :=
  macroReady_kept.kept_bind fun _ => .kept_of_released closeChan_released

/-! ## Every command, every step -/

theorem Within.kept_zero {f : State → Res Unit} (hf : Within ChannelKept f) : Within ChannelKept fun s => (f s).zero :=
  fun s => (hf s).zero

theorem commandBody?_kept : ∀ {i : Instr} {body : State → Res Sym}, commandBody? i = some body → Within ChannelKept body
  | .openr, _, rfl => openrBody_kept.kept_zero
  | .openw, _, rfl => openwBody_kept.kept_zero
  | .rdbit, _, rfl => readBit_kept.kept_bind fun _ => ChannelKept.refl
  | .rdbyte, _, rfl => (readBits_kept 8 0#8).kept_bind fun _ => ChannelKept.refl
  | .wrbit b, _, rfl => (writeBit_kept b).kept_zero
  | .wrbyte v, _, rfl => (writeBits_kept (byteBits v)).kept_zero
  | .close, _, rfl => closeBody_kept.kept_zero
  | .freq, _, rfl => Within.kept_zero (Within.imp freqBody_frame FreqFrame.kept)
  | .build, _, rfl => Within.kept_zero (Within.imp buildBody_frame BuildFrame.kept)
  | .codes, _, rfl => Within.kept_zero (Within.imp codesBody_frame CodesFrame.kept)
  | .sertree, _, rfl => sertreeBody_kept.kept_zero
  | .destree, _, rfl => destreeBody_kept.kept_zero
  | .putsym v, _, rfl => (putsymBody_kept v).kept_zero
  | .putterm, _, rfl => puttermBody_kept.kept_zero
  | .getsym, _, rfl => getsymBody_kept
  | .compress, _, rfl => compressBody_kept.kept_zero
  | .decompress, _, rfl => decompressBody_kept.kept_zero

theorem exec_channelKept {i : Instr} (h : exec i s = .next t) : ChannelKept s t := by
  cases hi : i.isCommand with
  | true =>
    obtain ⟨body, hb, hends⟩ := exec_eq_next hi h
    have hkept := commandBody?_kept hb s
    rcases hends with ⟨v, u, hu, -, rfl⟩ | ⟨f, u, hu, -, rfl⟩
    · exact (hkept.of_eq_ok hu : ChannelKept s u)
    · exact (hkept.of_eq_raise hu : ChannelKept s u)
  | false =>
    obtain ⟨tok, rfl⟩ := exists_token_of_not_command hi
    obtain ⟨-, -, -, -, -, -, hchan, -⟩ := exec_token_keeps h
    exact hchan.kept

end

/-! ## What a step comes to -/

/-- A step, taken apart: a command run, an illegal word, a move of the host, or, inside a header, a token or its failure. -/
inductive StepCases (s t : State) : Prop
  | waits (hh : s.hdr = none) (hi : s.inbox = []) (ht : t = s)
  | command (l : List HostAct) (i : Instr) (hh : s.hdr = none) (w : Word) (hi : s.inbox = .command w :: l)
      (hw : decodeWord w = .ok i) (h : exec i (s.withInbox l) = .next t)
  | illegal (l : List HostAct) (hh : s.hdr = none) (ht : t = endFail .illegalCommand (s.withInbox l))
  | bindSource (l : List HostAct) (r : Source) (hh : s.hdr = none) (hr : r.legal s.cfg = true)
      (ht : t = { s.withInbox l with src := r })
  | bindSink (l : List HostAct) (k : Sink) (hh : s.hdr = none) (ht : t = { s.withInbox l with snk := k })
  | reset (l : List HostAct) (hh : s.hdr = none) (ht : t = applyReset (s.withInbox l))
  | token (p : HeaderParse) (tok : Token) (u : State) (hh : s.hdr = some p) (hu : readToken s = .ok tok u)
      (h : exec tok.instr u = .next t)
  | headerFails (p : HeaderParse) (f : Failure) (u : State) (hh : s.hdr = some p) (g : Failure)
      (hu : readToken s = .raise g u) (ht : t = endFail f (u.withHdr none))

theorem step_cases {s t : State} (h : step s = .next t) : StepCases s t := by
  cases hh : s.hdr with
  | none =>
    cases hi : s.inbox with
    | nil =>
      rw [step, hh, commandStep, hi] at h
      exact .waits hh hi (Host.Outcome.next.inj h).symm
    | cons a l =>
      rw [step_eq_hostAct hh hi] at h
      cases a with
      | command w =>
        rw [hostAct] at h
        cases hw : decodeWord w with
        | ok i => exact .command l i hh w hi hw (by simpa [runCommand, hw] using h)
        | error e => exact .illegal l hh (by simpa [runCommand, hw, finishUnit, finish, eq_comm] using h)
      | bindSource r =>
        rw [hostAct] at h
        split at h
        · exact .bindSource l r hh ‹_› (Host.Outcome.next.inj h).symm
        · simp at h
      | bindSink k => exact .bindSink l k hh (Host.Outcome.next.inj h).symm
      | reset => exact .reset l hh (Host.Outcome.next.inj h).symm
  | some p =>
    rw [step, hh] at h
    dsimp only at h
    cases hr : readToken s with
    | stuck e => simp [headerStep, hr] at h
    | raise g u =>
      rw [headerStep, hr] at h
      exact .headerFails p _ u hh g hr (Host.Outcome.next.inj h).symm
    | ok tok u =>
      rw [headerStep, hr] at h
      exact .token p tok u hh hr h

/-- Settles O58: every command's body keeps the channel's invariants, and so do the host's moves and a header's tokens. -/
theorem stepKeepsTheChannelInvariant : Obligations.StepKeepsTheChannelInvariant := by
  intro s t hs h
  cases step_cases h with
  | waits _ _ ht => exact ht ▸ hs
  | command l i _ w _ _ h => exact exec_channelKept h hs
  | illegal l _ ht => exact ht ▸ hs
  | bindSource l r _ _ ht => exact ht ▸ hs
  | bindSink l k _ ht => exact ht ▸ hs
  | reset l _ ht => exact ht ▸ .of_closed rfl rfl rfl
  | token p tok u _ hu h => exact exec_channelKept h ((readToken_kept s).of_eq_ok hu hs)
  | headerFails p f u _ g hu ht =>
    have hu' : ChannelOk u := (readToken_kept s).of_eq_raise hu hs
    exact ht ▸ hu'

end Sys2Proof.Machine
end

section
/-! PROOF. The leaves of a valid frequency table (10_state.md R29, R34; 42_treebuilder.md R140 to R142, R146). -/

namespace Sys2Proof.Machine

/-! ## The counts of a table, byte by byte -/

theorem eq_map_some_of_allWritten {α : Type} {l : List (Option α)} {r : List α} (h : allWritten l = some r) :
    l = r.map some := by
  induction l generalizing r with
  | nil => cases h; rfl
  | cons o l ih =>
    cases o with
    | none => simp [allWritten] at h
    | some a =>
      cases hl : allWritten l with
      | none => simp [allWritten, hl] at h
      | some r' =>
        simp only [allWritten, hl, Option.some.injEq] at h
        rw [← h, ih hl]; rfl

theorem length_allBytes : allBytes.length = 256 := by simp [allBytes]

theorem allBytes_getElem {i : Nat} (hi : i < 256) : allBytes[i]'(by rw [length_allBytes]; exact hi) = BitVec.ofNat 8 i := by
  simp [allBytes]

/-- The table holds the counts `f`, byte by byte (R34). -/
def HoldsCounts (s : State) (f : Byte → Nat) : Prop := s.ft.toList = (allBytes.map f).map some

section
variable {s : State} {f : Byte → Nat}

theorem HoldsCounts.allWritten (h : HoldsCounts s f) : allWritten s.ft.toList = some (allBytes.map f) := by
  rw [h, allWritten_map_some]

theorem holdsCounts_iff : HoldsCounts s f ↔ ∀ b : Byte, s.ft[b.toNat]? = some (some (f b)) := by
  constructor
  · intro h b
    have hb : b.toNat < 256 := b.isLt
    rw [← Vector.getElem?_toList, h]
    simp [allBytes, hb]
  · intro h
    refine List.ext_getElem (by simp [length_allBytes]) fun i hi _ => ?_
    rw [Vector.length_toList] at hi
    have hft := h (BitVec.ofNat 8 i)
    rw [BitVec.toNat_ofNat, Nat.mod_eq_of_lt hi, Vector.getElem?_eq_getElem hi] at hft
    simpa [allBytes_getElem hi] using hft

/-- A valid table holds the counts of some bytes, and they add up to less than `2^CW` (R29, R132). -/
theorem FtOk.counts (h : FtOk s) (hv : s.ftV = true) :
    ∃ f, HoldsCounts s f ∧ (allBytes.map f).sum < 2 ^ s.cfg.cw := by
  obtain ⟨counts, hcounts, hsum⟩ := h hv
  have hlist := eq_map_some_of_allWritten hcounts
  have hlen : counts.length = 256 := by simpa using (congrArg List.length hlist).symm
  have hmap : counts = allBytes.map fun b => counts.getD b.toNat 0 := by
    refine List.ext_getElem (by simp [hlen, length_allBytes]) fun i hi _ => ?_
    rw [hlen] at hi
    simp [allBytes_getElem hi, Nat.mod_eq_of_lt hi, hlen, hi]
  exact ⟨fun b => counts.getD b.toNat 0, by rw [HoldsCounts, ← hmap, hlist], hmap ▸ hsum⟩

/-! ## The leaves in order -/

theorem presentBytes_map (f : Byte → Nat) :
    presentBytes (allBytes.map f) = (allBytes.filter fun b => decide (0 < f b)).map fun b => (byteSym b, f b) := by
  rw [presentBytes, ← List.map_prod_left_eq_zip, List.filter_map, List.map_map]
  rfl

theorem mem_presentBytes {x : Sym} {w : Nat} :
    (x, w) ∈ presentBytes (allBytes.map f) ↔ ∃ b, x = byteSym b ∧ w = f b ∧ 0 < f b := by
  simp only [presentBytes_map, List.mem_map, List.mem_filter, mem_allBytes, true_and, decide_eq_true_eq, Prod.mk.injEq]
  exact ⟨fun ⟨b, hb, hx, hw⟩ => ⟨b, hx.symm, hw.symm, hb⟩, fun ⟨b, hx, hw, hb⟩ => ⟨b, hb, hx.symm, hw.symm⟩⟩

/-- The leaves before the terminator's: the bytes present, or the dummy (R141, R146). -/
def byteLeaves (f : Byte → Nat) : List (Sym × Nat) :=
  if presentBytes (allBytes.map f) = [] then [(DUMMY, 0)] else presentBytes (allBytes.map f)

theorem buildLeaves_eq (f : Byte → Nat) : buildLeaves (allBytes.map f) = byteLeaves f ++ [(TERM, 0)] := by
  unfold byteLeaves
  split
  · exact buildLeaves_of_absent ‹_›
  · unfold buildLeaves
    split
    · contradiction
    · rfl

theorem byteSym_injective : Function.Injective byteSym :=
  fun _ _ h => BitVec.eq_of_toNat_eq (congrArg (fun x : Sym => x.val) h)

theorem byteSym_lt_term (b : Byte) : (byteSym b).val < TERM.val := b.isLt

theorem byteSym_ne_term (b : Byte) : byteSym b ≠ TERM := fun h => absurd (congrArg Fin.val h) (byteSym_lt_term b).ne

theorem allBytes_pairwise : allBytes.Pairwise fun b c => b.toNat < c.toNat := by
  rw [allBytes, List.pairwise_map]
  refine List.pairwise_lt_range.imp_of_mem fun hi hj h => ?_
  rw [List.mem_range] at hi hj
  rwa [BitVec.toNat_ofNat, BitVec.toNat_ofNat, Nat.mod_eq_of_lt hi, Nat.mod_eq_of_lt hj]

/-- The table's leaves, with their weights (R140, R141, R146). -/
theorem mem_buildLeaves {x : Sym} {w : Nat} : (x, w) ∈ buildLeaves (allBytes.map f) ↔
    (x = TERM ∧ w = 0) ∨ (∃ b, x = byteSym b ∧ w = f b ∧ 0 < f b) ∨ (x = DUMMY ∧ w = 0 ∧ ∀ b, f b = 0) := by
  have habsent : presentBytes (allBytes.map f) = [] ↔ ∀ b, f b = 0 := by
    rw [List.eq_nil_iff_forall_not_mem]
    refine ⟨fun h b => Nat.eq_zero_of_not_pos fun hb => h (byteSym b, f b) (mem_presentBytes.mpr ⟨b, rfl, rfl, hb⟩), ?_⟩
    rintro h ⟨x, w⟩ hmem
    obtain ⟨b, -, -, hb⟩ := mem_presentBytes.mp hmem
    exact hb.ne' (h b)
  rw [buildLeaves_eq, List.mem_append, List.mem_singleton, Prod.mk.injEq, or_comm]
  refine or_congr_right ?_
  unfold byteLeaves
  split
  · rename_i h
    have hzero := habsent.mp h
    simp [hzero]
  · rename_i h
    rw [mem_presentBytes]
    simp [mt habsent.mpr h]

/-- The leaves stand in ascending order of symbol (R142). -/
theorem buildLeaves_pairwise (f : Byte → Nat) : (buildLeaves (allBytes.map f)).Pairwise fun p q => p.1.val < q.1.val := by
  have hbytes : (byteLeaves f).Pairwise fun p q => p.1.val < q.1.val := by
    unfold byteLeaves
    split
    · exact List.pairwise_singleton _ _
    · rw [presentBytes_map, List.pairwise_map]
      exact allBytes_pairwise.filter _
  have hlt : ∀ p ∈ byteLeaves f, p.1.val < TERM.val := by
    intro p hp
    unfold byteLeaves at hp
    split at hp
    · rw [List.mem_singleton.mp hp]; decide
    · obtain ⟨b, hb, -⟩ := mem_presentBytes.mp hp
      exact hb ▸ byteSym_lt_term b
  rw [buildLeaves_eq, List.pairwise_append]
  exact ⟨hbytes, List.pairwise_singleton _ _, fun p hp q hq => List.mem_singleton.mp hq ▸ hlt p hp⟩

theorem buildLeaves_nodup (f : Byte → Nat) : ((buildLeaves (allBytes.map f)).map (·.1)).Nodup := by
  rw [List.Nodup, List.pairwise_map]
  exact (buildLeaves_pairwise f).imp fun h => (Fin.ne_of_lt h)

theorem length_buildLeaves_le (f : Byte → Nat) : (buildLeaves (allBytes.map f)).length ≤ 257 := by
  simpa using length_le_of_nodup (buildLeaves_nodup f)

theorem two_le_length_buildLeaves (f : Byte → Nat) : 2 ≤ (buildLeaves (allBytes.map f)).length := by
  have hpos : 0 < (byteLeaves f).length := by
    unfold byteLeaves
    split
    · exact Nat.one_pos
    · exact List.length_pos_of_ne_nil ‹_›
  rw [buildLeaves_eq, List.length_append, List.length_singleton]
  omega

/-- The weights of the leaves add up to the counts (R31 (f), R132). -/
theorem sum_buildLeaves (f : Byte → Nat) : ((buildLeaves (allBytes.map f)).map (·.2)).sum = (allBytes.map f).sum := by
  have hfilter (l : List Byte) : ((l.filter fun b => decide (0 < f b)).map f).sum = (l.map f).sum := by
    induction l with
    | nil => rfl
    | cons b l ih =>
      by_cases hb : 0 < f b
      · simp [hb, ih]
      · simp [show f b = 0 by omega, ih]
  have hpresent : ((presentBytes (allBytes.map f)).map (·.2)).sum = (allBytes.map f).sum := by
    rw [presentBytes_map, List.map_map, ← hfilter]; rfl
  rw [buildLeaves_eq, List.map_append, List.sum_append]
  unfold byteLeaves
  split
  · rename_i h
    rw [← hpresent, h]; simp
  · rw [hpresent]; simp

end

/-- Settles O31: the leaves are the byte's and the terminator's, and the one merge takes the terminator's first, which
weighs less. -/
theorem buildOfOneByteValue : Obligations.BuildOfOneByteValue := by
  intro s x k hv hk hft
  have hcounts : HoldsCounts s fun b => if b = x then k else 0 := holdsCounts_iff.mpr hft
  have hpresent : presentBytes (allBytes.map fun b => if b = x then k else 0) = [(byteSym x, k)] := by
    have hnodup : allBytes.Nodup := allBytes_pairwise.imp fun h => by rintro rfl; exact lt_irrefl _ h
    have hfilter : (allBytes.filter fun b => decide (0 < if b = x then k else 0)) = [x] := by
      rw [List.filter_congr (q := (· == x)) fun b _ => by by_cases hb : b = x <;> simp [hb, hk], List.filter_beq,
        List.count_eq_one_of_mem hnodup (mem_allBytes x)]
      rfl
    rw [presentBytes_map, hfilter]; simp
  have hleaves : buildLeaves (allBytes.map fun b => if b = x then k else 0) = [(byteSym x, k), (TERM, 0)] := by
    rw [buildLeaves_eq, byteLeaves, hpresent]; rfl
  have hpop : popMin [⟨1, 0⟩, ⟨0, k⟩] = some (⟨1, 0⟩, [⟨0, k⟩]) := by simp [popMin, QEntry.before, hk]
  have hbody := buildBody_of_two_leaves hv hcounts.allWritten hleaves hpop
  have hframe : BodyFrame s _ := (buildBody_bodyFrame s).of_eq_ok hbody
  have h0 := s.threeNodes_node_zero (leafNode (byteSym x) k) (leafNode TERM 0) (innerNode (some 1) (some 0) (0 + k))
  have h1 := s.threeNodes_node_one (leafNode (byteSym x) k) (leafNode TERM 0) (innerNode (some 1) (some 0) (0 + k))
  have h2 := s.threeNodes_node_two (leafNode (byteSym x) k) (leafNode TERM 0) (innerNode (some 1) (some 0) (0 + k))
  exact ⟨_, finishUnit_of_eq_ok hbody, hframe.endsOk 0, rfl, rfl, rfl,
    congrArg (Option.map (·.1)) (absTree_of_two_leaves (r := 2) (a := 1) (b := 0) h2 h1 h0 255),
    Vector.getElem?_eq_some_iff.mpr ⟨by decide, h0⟩, Vector.getElem?_eq_some_iff.mpr ⟨by decide, h1⟩,
    by simp [Tree.code?, byteSym_ne_term], by simp [Tree.code?]⟩

end Sys2Proof.Machine
end

section
/-! PROOF. The merges of `BUILD` (42_treebuilder.md R141 to R145): a forest that grows into the tree of the table. -/

namespace Sys2Proof.Machine

/-! ## Nodes not yet merged -/

/-- `Unmerged`, where the bound may be one past the arena. -/
def UnmergedBelow (arena : Vector (Option Node) 513) (n : Nat) (x : NodeIx) : Prop :=
  ∀ (j : NodeIx) (e : Node), j.val < n → arena[j.val] = some e → e.leaf = false → e.left ≠ some x ∧ e.right ≠ some x

section
variable {A B : Vector (Option Node) 513} {k x a b : NodeIx} {e : Node} {v : Option Node} {n w : Nat}

theorem set_getElem_below (A : Vector (Option Node) 513) (v : Option Node) (hx : x.val < k.val) :
    (A.set k.val v k.isLt)[x.val] = A[x.val] := Vector.getElem_set_ne _ _ hx.ne'

theorem UnmergedBelow.congr (hab : ∀ x : NodeIx, x.val < n → B[x.val] = A[x.val]) :
    UnmergedBelow B n x ↔ UnmergedBelow A n x := by
  refine forall₂_congr fun j e => ?_
  refine forall_congr' fun hj => ?_
  rw [hab j hj]

theorem unmergedBelow_succ (hk : A[k.val] = some e) : UnmergedBelow A (k.val + 1) x ↔
    UnmergedBelow A k.val x ∧ (e.leaf = false → e.left ≠ some x ∧ e.right ≠ some x) := by
  constructor
  · exact fun h => ⟨fun j f hj => h j f (by omega), h k e (Nat.lt_succ_self _) hk⟩
  · rintro ⟨h, he⟩ j f hj hf
    rcases Nat.lt_succ_iff_lt_or_eq.mp hj with hj | hj
    · exact h j f hj hf
    · obtain rfl := Fin.ext hj
      obtain rfl := Option.some.inj (hk.symm.trans hf)
      exact he

/-- Whether a node is a merge of the two least is said by the nodes below it (R144). -/
theorem MergesTheLeast.congr (h : MergesTheLeast A k e) (hab : ∀ x : NodeIx, x.val < k.val → B[x.val] = A[x.val]) :
    MergesTheLeast B k e := by
  obtain ⟨a, b, ea, eb, hl, hr, ha, hb, hea, heb, hw, hua, hub, hfirst, hrest⟩ := h
  refine ⟨a, b, ea, eb, hl, hr, ha, hb, (hab a ha).trans hea, (hab b hb).trans heb, hw, (UnmergedBelow.congr hab).mpr hua,
    (UnmergedBelow.congr hab).mpr hub, hfirst, fun x ex hx hxa hxb hex hux => ?_⟩
  exact hrest x ex hx hxa hxb ((hab x hx).symm.trans hex) ((UnmergedBelow.congr hab).mp hux)

end

/-! ## The forest -/

/-- The nodes below `n` are the leaves `L` and the merges made of them so far, and the queue `q` holds the roots; `T` says
which tree stands at a root, made of which nodes. -/
structure Forest (L : List (Sym × Nat)) (T : NodeIx → Tree × List NodeIx) (q : List QEntry) (A : Vector (Option Node) 513)
    (n : Nat) : Prop where
  count : n + q.length = 2 * L.length
  low : L.length ≤ n
  leaf : ∀ (h : NodeIx) p, L[h.val]? = some p → A[h.val] = some (leafNode p.1 p.2)
  inner : ∀ k : NodeIx, L.length ≤ k.val → k.val < n →
    ∃ l r w, A[k.val] = some (innerNode l r w) ∧ MergesTheLeast A k (innerNode l r w)
  queued : ∀ x : NodeIx, x.val < n → (x ∈ q.map (·.h) ↔ UnmergedBelow A n x)
  entries : ∀ m ∈ q, m.h.val < n ∧ ∃ e, A[m.h.val] = some e ∧ e.w = m.w
  nodup : (q.map (·.h)).Nodup
  stands : ∀ m ∈ q, absTree ((T m.h).1.depth + 1) A m.h = some (T m.h)
  handles : (q.flatMap fun m => (T m.h).2.map (·.val)).Perm (List.range n)
  leaves : (q.flatMap fun m => (T m.h).1.leaves).Perm (L.map (·.1))
  total : (q.map (·.w)).sum = (L.map (·.2)).sum
  weights : ∀ (h : NodeIx) e, h.val < n → A[h.val] = some e → e.w ≤ (L.map (·.2)).sum

section
variable {L : List (Sym × Nat)} {T : NodeIx → Tree × List NodeIx} {q q' l : List QEntry} {A : Vector (Option Node) 513}
  {n w : Nat} {k : NodeIx} {a b m : QEntry} {x : Sym}

theorem Forest.empty (T : NodeIx → Tree × List NodeIx) (A : Vector (Option Node) 513) : Forest [] T [] A 0 := by
  constructor <;> simp

theorem Forest.perm (h : Forest L T q A n) (hq : q.Perm q') : Forest L T q' A n where
  count := hq.length_eq ▸ h.count
  low := h.low
  leaf := h.leaf
  inner := h.inner
  queued x hx := ((hq.map _).mem_iff).symm.trans (h.queued x hx)
  entries m hm := h.entries m (hq.mem_iff.mpr hm)
  nodup := (hq.map _).nodup_iff.mp h.nodup
  stands m hm := h.stands m (hq.mem_iff.mpr hm)
  handles := (hq.flatMap_right _).symm.trans h.handles
  leaves := (hq.flatMap_right _).symm.trans h.leaves
  total := (hq.map (·.w)).sum_eq ▸ h.total
  weights := h.weights

/-- The children of a node stand below it (R31 (e)). -/
theorem Forest.children (h : Forest L T q A n) {j x : NodeIx} {e : Node} (hj : j.val < n) (he : A[j.val] = some e)
    (hleaf : e.leaf = false) (hx : e.left = some x ∨ e.right = some x) : x.val < j.val := by
  by_cases hlow : j.val < L.length
  · obtain rfl := Option.some.inj (he.symm.trans (h.leaf j _ (List.getElem?_eq_getElem hlow)))
    exact Bool.noConfusion hleaf
  · obtain ⟨l, r, w, hf, a, b, ea, eb, hl, hr, ha, hb, -⟩ := h.inner j (not_lt.mp hlow) hj
    obtain rfl := Option.some.inj (he.symm.trans hf)
    rcases hx with hx | hx
    · exact Option.some.inj (hl.symm.trans hx) ▸ ha
    · exact Option.some.inj (hr.symm.trans hx) ▸ hb

/-- The last node made, and the next, is no child of one there (R141). -/
theorem Forest.unmerged (h : Forest L T q A n) (hk : n ≤ k.val + 1) : UnmergedBelow A n k := by
  refine fun j e hj he hleaf => ⟨fun hx => ?_, fun hx => ?_⟩
  · have := h.children hj he hleaf (.inl hx); omega
  · have := h.children hj he hleaf (.inr hx); omega

/-! ## Its two steps -/

/-- The trees with one more at the handle `k`. -/
def grown (T : NodeIx → Tree × List NodeIx) (k : NodeIx) (p : Tree × List NodeIx) : NodeIx → Tree × List NodeIx :=
  Function.update T k p

theorem grown_self (p : Tree × List NodeIx) : grown T k p k = p := Function.update_self ..

theorem grown_below (p : Tree × List NodeIx) {y : NodeIx} (hy : y.val < k.val) : grown T k p y = T y :=
  Function.update_of_ne (Fin.ne_of_lt hy) ..

theorem Forest.mem_lt (h : Forest L T q A n) (hm : m ∈ q) : m.h.val < n := (h.entries m hm).1

theorem Forest.handles_lt (h : Forest L T q A n) (hm : m ∈ q) {g : NodeIx} (hg : g ∈ (T m.h).2) : g.val < n :=
  List.mem_range.mp (h.handles.mem_iff.mp (List.mem_flatMap.mpr ⟨m, hm, List.mem_map_of_mem hg⟩))

theorem Forest.next_notMem (h : Forest L T q A k.val) : k ∉ q.map (·.h) := fun hk => by
  obtain ⟨m, hm, rfl⟩ := List.mem_map.mp hk
  exact lt_irrefl _ (h.mem_lt hm)

/-- The trees that stand are untouched by a node after them. -/
theorem Forest.stands_set (h : Forest L T q A k.val) (v : Option Node) (hm : m ∈ q) {d : Nat}
    (hd : (T m.h).1.depth + 1 ≤ d) : absTree d (A.set k.val v k.isLt) m.h = some (T m.h) :=
  absTree_congr (h.stands m hm) (fun _ hg => set_getElem_below A v (h.handles_lt hm hg)) hd

theorem Forest.flatMap_grown {β : Type} (h : Forest L T q A k.val) (hl : l ⊆ q) (p : Tree × List NodeIx)
    (F : Tree × List NodeIx → List β) : (l.flatMap fun m => F (grown T k p m.h)) = l.flatMap fun m => F (T m.h) :=
  List.flatMap_congr fun m hm => by rw [grown_below p (h.mem_lt (hl hm))]

/-- A leaf is added to a forest of leaves (R141, R142). -/
theorem Forest.addLeaf (h : Forest L T q A k.val) (hk : k.val = L.length) (x : Sym) (w : Nat) :
    Forest (L ++ [(x, w)]) (grown T k (.leaf x, [k])) (⟨k, w⟩ :: q) (A.set k.val (some (leafNode x w)) k.isLt)
      (k.val + 1) := by
  have hself : (A.set k.val (some (leafNode x w)) k.isLt)[k.val] = some (leafNode x w) := Vector.getElem_set_self _
  have hbelow {y : NodeIx} (hy : y.val < k.val) := set_getElem_below A (some (leafNode x w)) hy
  constructor
  case count => have := h.count; simp only [List.length_cons, List.length_append, List.length_nil]; omega
  case low => simp [hk]
  case leaf =>
    intro y p hp
    rcases Nat.lt_trichotomy y.val L.length with hy | hy | hy
    · rw [hbelow (hk ▸ hy)]
      exact h.leaf y p (List.getElem?_append_left hy ▸ hp)
    · obtain rfl : y = k := Fin.ext (hy.trans hk.symm)
      rw [hy, List.getElem?_concat_length] at hp
      exact Option.some.inj hp ▸ hself
    · rw [List.getElem?_eq_none (by simpa using hy)] at hp
      simp at hp
  case inner => intro j hj hj'; simp only [List.length_append, List.length_singleton] at hj; omega
  case queued =>
    intro y hy
    rw [unmergedBelow_succ hself, UnmergedBelow.congr fun _ => hbelow, List.map_cons, List.mem_cons]
    rcases Nat.lt_succ_iff_lt_or_eq.mp hy with hy | hy
    · simp [Fin.ne_of_lt hy, h.queued y hy, leafNode]
    · obtain rfl := Fin.ext hy
      simp [h.unmerged (Nat.le_succ _), leafNode]
  case entries =>
    refine List.forall_mem_cons.mpr ⟨⟨Nat.lt_succ_self _, _, hself, rfl⟩, fun m hm => ?_⟩
    obtain ⟨hlt, he⟩ := h.entries m hm
    exact ⟨by omega, hbelow hlt ▸ he⟩
  case nodup => exact List.nodup_cons.mpr ⟨h.next_notMem, h.nodup⟩
  case stands =>
    refine List.forall_mem_cons.mpr ⟨?_, fun m hm => ?_⟩
    · rw [grown_self]; exact absTree_of_leaf hself rfl
    · rw [grown_below _ (h.mem_lt hm)]; exact h.stands_set _ hm le_rfl
  case handles =>
    rw [List.flatMap_cons, h.flatMap_grown (List.Subset.refl q) _ fun p => p.2.map (·.val), grown_self, List.range_succ]
    exact List.perm_append_comm.trans (h.handles.append_right _)
  case leaves =>
    rw [List.flatMap_cons, h.flatMap_grown (List.Subset.refl q) _ fun p => p.1.leaves, grown_self, List.map_append]
    exact List.perm_append_comm.trans (h.leaves.append_right _)
  case total => simp [h.total, Nat.add_comm]
  case weights =>
    intro y e hy he
    rw [List.map_append, List.sum_append]
    rcases Nat.lt_succ_iff_lt_or_eq.mp hy with hy | hy
    · exact (h.weights y e hy (hbelow hy ▸ he)).trans (Nat.le_add_right _ _)
    · obtain rfl := Fin.ext hy
      obtain rfl := Option.some.inj (hself.symm.trans he)
      simp [leafNode]

/-- The two least of the queue are the two least nodes not yet merged (R143). -/
theorem Forest.mergesTheLeast (h : Forest L T (a :: b :: l) A k.val) (hab : b.before a = false)
    (hl : ∀ m ∈ l, m.before b = false) : MergesTheLeast A k (innerNode (some a.h) (some b.h) (a.w + b.w)) := by
  obtain ⟨halt, ea, hea, hwa⟩ := h.entries a (by simp)
  obtain ⟨hblt, eb, heb, hwb⟩ := h.entries b (by simp)
  have hne : a.h.val ≠ b.h.val := fun hval => by simpa [Fin.ext hval] using h.nodup
  refine ⟨a.h, b.h, ea, eb, rfl, rfl, halt, hblt, hea, heb, by rw [hwa, hwb]; rfl, (h.queued _ halt).mp (by simp),
    (h.queued _ hblt).mp (by simp), ?_, fun x ex hx hxa hxb hex hux => ?_⟩
  · rw [QEntry.before_eq_false_iff] at hab
    rw [Precedes]
    omega
  · have hmem := (h.queued x hx).mpr hux
    obtain ⟨m, hm, rfl⟩ : ∃ m ∈ l, m.h = x := by simpa [hxa, hxb] using hmem
    obtain ⟨-, e, he, hwm⟩ := h.entries m (by simp [hm])
    obtain rfl := Option.some.inj (hex.symm.trans he)
    have hbm := QEntry.before_eq_false_iff.mp (hl m hm)
    have hxb' : m.h.val ≠ b.h.val := fun h => hxb (Fin.ext h)
    rw [Precedes]
    omega

/-- The rest of the queue is the nodes not yet merged but the two least. -/
theorem Forest.mem_rest_iff (h : Forest L T (a :: b :: l) A k.val) {y : NodeIx} (hy : y.val < k.val) :
    y ∈ l.map (·.h) ↔ UnmergedBelow A k.val y ∧ a.h ≠ y ∧ b.h ≠ y := by
  have hnodup := h.nodup
  simp only [List.map_cons, List.nodup_cons, List.mem_cons, not_or] at hnodup
  obtain ⟨⟨-, hal⟩, hbl, -⟩ := hnodup
  rw [← h.queued y hy, List.map_cons, List.map_cons, List.mem_cons, List.mem_cons]
  constructor
  · exact fun hm => ⟨.inr (.inr hm), fun ha => hal (ha ▸ hm), fun hb => hbl (hb ▸ hm)⟩
  · rintro ⟨ha | hb | hm, hya, hyb⟩
    · exact absurd ha.symm hya
    · exact absurd hb.symm hyb
    · exact hm

/-- The two least trees become one (R144). -/
theorem Forest.merge (h : Forest L T (a :: b :: l) A k.val) (hab : b.before a = false) (hl : ∀ m ∈ l, m.before b = false) :
    Forest L (grown T k (.node (T a.h).1 (T b.h).1, k :: ((T a.h).2 ++ (T b.h).2))) (⟨k, a.w + b.w⟩ :: l)
      (A.set k.val (some (innerNode (some a.h) (some b.h) (a.w + b.w))) k.isLt) (k.val + 1) := by
  have hleast := h.mergesTheLeast hab hl
  have hsub : l ⊆ a :: b :: l := fun m hm => by simp [hm]
  have hamem : a ∈ a :: b :: l := by simp
  have hbmem : b ∈ a :: b :: l := by simp
  have hself := Vector.getElem_set_self (xs := A) (x := some (innerNode (some a.h) (some b.h) (a.w + b.w))) k.isLt
  have hbelow {y : NodeIx} (hy : y.val < k.val) :=
    set_getElem_below A (some (innerNode (some a.h) (some b.h) (a.w + b.w))) hy
  constructor
  case count => have := h.count; simp only [List.length_cons] at this ⊢; omega
  case low => exact h.low.trans (Nat.le_succ _)
  case leaf =>
    intro y p hp
    obtain ⟨hy, -⟩ := List.getElem?_eq_some_iff.mp hp
    rw [hbelow (hy.trans_le h.low)]
    exact h.leaf y p hp
  case inner =>
    intro j hj hj'
    rcases Nat.lt_succ_iff_lt_or_eq.mp hj' with hj' | hj'
    · obtain ⟨l, r, w, he, hm⟩ := h.inner j hj hj'
      exact ⟨l, r, w, (hbelow hj').trans he, hm.congr fun y hy => hbelow (hy.trans hj')⟩
    · obtain rfl := Fin.ext hj'
      exact ⟨_, _, _, hself, hleast.congr fun y hy => hbelow hy⟩
  case queued =>
    intro y hy
    rw [unmergedBelow_succ hself, UnmergedBelow.congr fun _ => hbelow, List.map_cons, List.mem_cons]
    rcases Nat.lt_succ_iff_lt_or_eq.mp hy with hy | hy
    · simpa [Fin.ne_of_lt hy, innerNode] using h.mem_rest_iff hy
    · obtain rfl := Fin.ext hy
      simp [h.unmerged (Nat.le_succ _), innerNode, Fin.ne_of_lt (h.mem_lt hamem), Fin.ne_of_lt (h.mem_lt hbmem)]
  case entries =>
    refine List.forall_mem_cons.mpr ⟨⟨Nat.lt_succ_self _, _, hself, rfl⟩, fun m hm => ?_⟩
    obtain ⟨hlt, he⟩ := h.entries m (hsub hm)
    exact ⟨by omega, hbelow hlt ▸ he⟩
  case nodup => exact List.nodup_cons.mpr ⟨fun hk => h.next_notMem (.tail _ (.tail _ hk)), h.nodup.tail.tail⟩
  case stands =>
    refine List.forall_mem_cons.mpr ⟨?_, fun m hm => ?_⟩
    · rw [grown_self]
      exact absTree_of_node hself rfl rfl rfl (h.stands_set _ hamem (by simp [Tree.depth]))
        (h.stands_set _ hbmem (by simp [Tree.depth]))
    · rw [grown_below _ (h.mem_lt (hsub hm))]; exact h.stands_set _ (hsub hm) le_rfl
  case handles =>
    rw [List.flatMap_cons, h.flatMap_grown hsub _ fun p => p.2.map (·.val), grown_self, List.range_succ]
    refine List.Perm.trans ?_ (List.perm_append_comm.trans (h.handles.append_right _))
    simp
  case leaves =>
    rw [List.flatMap_cons, h.flatMap_grown hsub _ fun p => p.1.leaves, grown_self]
    simpa [Tree.leaves] using h.leaves
  case total => simpa [Nat.add_assoc] using h.total
  case weights =>
    intro y e hy he
    rcases Nat.lt_succ_iff_lt_or_eq.mp hy with hy | hy
    · exact h.weights y e hy (hbelow hy ▸ he)
    · obtain rfl := Fin.ext hy
      obtain rfl := Option.some.inj (hself.symm.trans he)
      rw [← h.total]
      simp [innerNode, ← Nat.add_assoc]

/-! ## The two loops -/

variable {s t : State}

theorem allocLeaves_forest (l : List (Sym × Nat)) (h : Forest L T q s.node s.ncnt.val) (hn : s.ncnt.val = L.length)
    (hlen : L.length + l.length ≤ 513) :
    ∃ T' q' t, allocLeaves l q s = .ok q' t ∧ Forest (L ++ l) T' q' t.node t.ncnt.val := by
  induction l generalizing L T q s with
  | nil => exact ⟨T, q, s, rfl, by rwa [List.append_nil]⟩
  | cons p l ih =>
    rw [List.length_cons] at hlen
    obtain ⟨k, hk⟩ : ∃ k : NodeIx, s.ncnt = k.castSucc := ⟨⟨s.ncnt.val, by omega⟩, rfl⟩
    rw [hk] at h hn
    have hgrown := h.addLeaf hn p.1 p.2
    rw [allocLeaves_cons hk, List.append_cons]
    exact ih (s := s.allocated k (leafNode p.1 p.2)) hgrown (by simpa [State.allocated] using hn) (by simp; omega)

theorem mergeLoop_forest (fuel : Nat) (h : Forest L T q s.node s.ncnt.val) (hpos : 0 < q.length) (hfuel : q.length ≤ fuel)
    (hlen : L.length ≤ 257) :
    ∃ T' m t, mergeLoop fuel q s = .ok m.h t ∧ Forest L T' [m] t.node t.ncnt.val := by
  induction fuel generalizing T q s with
  | zero => omega
  | succ fuel ih =>
    cases ha : popMin q with
    | none => rw [popMin_eq_none_iff.mp ha] at hpos; exact absurd hpos (lt_irrefl 0)
    | some p =>
      obtain ⟨a, r⟩ := p
      have hq := popMin_perm ha
      cases hb : popMin r with
      | none =>
        obtain rfl := popMin_eq_none_iff.mp hb
        exact ⟨T, a, s, mergeLoop_of_one ha fuel, h.perm hq⟩
      | some p =>
        obtain ⟨b, l⟩ := p
        have hr := popMin_perm hb
        have hperm := hq.trans (hr.cons a)
        have hcount := h.count
        rw [hperm.length_eq] at hcount hfuel
        simp only [List.length_cons] at hcount hfuel
        obtain ⟨k, hk⟩ : ∃ k : NodeIx, s.ncnt = k.castSucc := ⟨⟨s.ncnt.val, by omega⟩, rfl⟩
        rw [mergeLoop_of_two ha hb hk]
        rw [hk] at h
        exact ih (s := s.allocated k (innerNode (some a.h) (some b.h) (a.w + b.w)))
          ((h.perm hperm).merge (popMin_least ha b (hperm.mem_iff.mpr (by simp)))
            fun m hm => popMin_least hb m (hr.mem_iff.mpr (by simp [hm]))) (by simp) (by simp; omega)

end

/-! ## The tree of the table -/

/-- The tree that `BUILD` makes of the counts `f` (R141 to R144). -/
structure TreeBuilt (f : Byte → Nat) (t : State) (tree : Tree) : Prop where
  holds : HoldsTree t tree
  leaves : tree.leaves.Perm ((buildLeaves (allBytes.map f)).map (·.1))
  treeV : t.treeV = true
  ctV : t.ctV = false
  ncnt : t.ncnt.val = 2 * tree.leaves.length - 1
  root : t.root.map (·.val) = some (2 * tree.leaves.length - 2)
  leaf : ∀ (h : NodeIx) p, (buildLeaves (allBytes.map f))[h.val]? = some p → t.node[h.val] = some (leafNode p.1 p.2)
  inner : ∀ k : NodeIx, tree.leaves.length ≤ k.val → k.val < t.ncnt.val →
    ∃ l r w, t.node[k.val] = some (innerNode l r w) ∧ MergesTheLeast t.node k (innerNode l r w)

section
variable {s t : State} {f : Byte → Nat} {tree : Tree}

theorem Forest.weightsOk {L : List (Sym × Nat)} {T : NodeIx → Tree × List NodeIx} {q : List QEntry} {hs : List NodeIx}
    (h : Forest L T q t.node t.ncnt.val) (hhs : ∀ g ∈ hs, g.val < t.ncnt.val)
    (hsum : (L.map (·.2)).sum < 2 ^ t.cfg.cw) : WeightsOk t hs := by
  refine fun g hg e he => ⟨(h.weights g e (hhs g hg) he).trans_lt hsum, fun l r el er hleaf hl hr hel her => ?_⟩
  by_cases hlow : g.val < L.length
  · obtain rfl := Option.some.inj (he.symm.trans (h.leaf g _ (List.getElem?_eq_getElem hlow)))
    exact Bool.noConfusion hleaf
  · obtain ⟨l', r', w, hf, a, b, ea, eb, hl', hr', -, -, hea, heb, hw, -⟩ := h.inner g (not_lt.mp hlow) (hhs g hg)
    obtain rfl := Option.some.inj (he.symm.trans hf)
    obtain rfl := Option.some.inj (hl'.symm.trans hl)
    obtain rfl := Option.some.inj (hr'.symm.trans hr)
    rw [hw, Option.some.inj (hel.symm.trans hea), Option.some.inj (her.symm.trans heb)]

theorem Tree.Wf.of_buildLeaves (hleaves : tree.leaves.Perm ((buildLeaves (allBytes.map f)).map (·.1))) : tree.Wf := by
  refine ⟨hleaves.nodup_iff.mpr (buildLeaves_nodup f), hleaves.mem_iff.mpr ?_⟩
  rw [buildLeaves_eq]
  simp

theorem Forest.treeBuilt {T : NodeIx → Tree × List NodeIx} {m : QEntry}
    (h : Forest (buildLeaves (allBytes.map f)) T [m] t.node t.ncnt.val) (hsum : (allBytes.map f).sum < 2 ^ t.cfg.cw)
    (hct : t.ctV = false) : TreeBuilt f (t.rooted m.h) (T m.h).1 := by
  have hleaves : (T m.h).1.leaves.Perm ((buildLeaves (allBytes.map f)).map (·.1)) := by simpa using h.leaves
  have hwf := Tree.Wf.of_buildLeaves hleaves
  have hlen : (T m.h).1.leaves.length = (buildLeaves (allBytes.map f)).length := by simpa using hleaves.length_eq
  have hhandles : ((T m.h).2.map (·.val)).Perm (List.range t.ncnt.val) := by simpa using h.handles
  have hmem (g : NodeIx) : g ∈ (T m.h).2 ↔ g.val < t.ncnt.val := by
    rw [← List.mem_range, ← hhandles.mem_iff]
    exact ⟨List.mem_map_of_mem, fun hg => by obtain ⟨g', hg', hval⟩ := List.mem_map.mp hg; exact Fin.ext hval ▸ hg'⟩
  have hcount : t.ncnt.val + 1 = 2 * (T m.h).1.leaves.length := hlen ▸ h.count
  have hlow := hlen ▸ h.low
  have htwo := hlen ▸ two_le_length_buildLeaves f
  constructor
  case holds =>
    have hweights : WeightsOk t (T m.h).2 := h.weightsOk (fun g => (hmem g).mp) ((sum_buildLeaves f).trans_lt hsum)
    have hnodup : (T m.h).2.Nodup := .of_map _ (hhandles.nodup_iff.mpr List.nodup_range)
    refine ⟨(T m.h).2, (rooted_tree? t m.h).trans ?_, hnodup, hmem, hwf, hweights⟩
    obtain ⟨-, -, hdepth, -⟩ := treeAndHeaderSizes _ hwf
    have h257 := length_le_of_nodup hwf.1
    exact absTree_congr (h.stands m (by simp)) (fun _ _ => rfl) (by rw [maxFrames]; omega)
  case leaves => exact hleaves
  case treeV => rfl
  case ctV => exact hct
  case ncnt => exact Nat.eq_sub_of_add_eq hcount
  case root =>
    have hk : t.ncnt.val - 1 < t.ncnt.val := by omega
    have hlast := (h.queued ⟨t.ncnt.val - 1, by omega⟩ hk).mpr (h.unmerged (by simp; omega))
    have hroot : t.ncnt.val - 1 = m.h.val := congrArg Fin.val (List.mem_singleton.mp hlast)
    change some m.h.val = some _
    rw [← hroot, show 2 * (T m.h).1.leaves.length - 2 = t.ncnt.val - 1 by omega]
  case leaf => exact h.leaf
  case inner => exact hlen ▸ h.inner

theorem buildBody_of_holdsCounts (hv : s.ftV = true) (hf : HoldsCounts s f) (hsum : (allBytes.map f).sum < 2 ^ s.cfg.cw) :
    ∃ t tree, buildBody s = .ok () t ∧ TreeBuilt f t tree := by
  have hlen := length_buildLeaves_le f
  have htwo := two_le_length_buildLeaves f
  obtain ⟨T, q, t, halloc, hforest⟩ := allocLeaves_forest (buildLeaves (allBytes.map f))
    (s := clearTree s) (Forest.empty (fun h => (.leaf TERM, [h])) _) rfl (by simp; omega)
  rw [List.nil_append] at hforest
  have hqueue := hforest.count
  have hlow := hforest.low
  have hpos : 0 < q.length := by
    refine List.length_pos_iff.mpr fun hq => ?_
    have hnil := hforest.leaves.length_eq
    rw [hq, List.flatMap_nil, List.length_nil, List.length_map] at hnil
    exact absurd (hnil ▸ htwo) (by decide)
  obtain ⟨T', m, u, hmerge, hdone⟩ := mergeLoop_forest maxFrames hforest hpos (by rw [maxFrames]; omega) hlen
  have hframe := ((allocLeaves_frame _ _ _).of_eq_ok halloc).trans ((mergeLoop_frame _ _ _).of_eq_ok hmerge)
  have hcfg : u.cfg = s.cfg := by rw [hframe]; rfl
  refine ⟨u.rooted m.h, _, ?_, hdone.treeBuilt (hcfg ▸ hsum) (by rw [hframe]; rfl)⟩
  rw [buildBody_of_counts hv hf.allWritten, halloc, Res.bind_ok, hmerge, Res.bind_ok]

end
end Sys2Proof.Machine
end

section
/-! PROOF. `BUILD` on a valid table (42_treebuilder.md R140 to R148): its tree, node by node, and its first merge. -/

namespace Sys2Proof.Machine

section
variable {s t : State} {f : Byte → Nat} {tree : Tree} {h k : NodeIx} {e : Node} {x : Sym} {w : Nat}

theorem node_getElem?_eq_some : t.node[h.val]? = some (some e) ↔ t.node[h.val] = some e := by
  rw [Vector.getElem?_eq_getElem h.isLt, Option.some.injEq]

theorem TreeBuilt.length_leaves (hb : TreeBuilt f t tree) :
    tree.leaves.length = (buildLeaves (allBytes.map f)).length := by simpa using hb.leaves.length_eq

/-- The nodes in use are the leaves of the table, and the merges above them (R141). -/
theorem TreeBuilt.node_cases (hb : TreeBuilt f t tree) (hh : h.val < t.ncnt.val) (he : t.node[h.val] = some e) :
    (h.val < tree.leaves.length ∧ ∃ p, (buildLeaves (allBytes.map f))[h.val]? = some p ∧ e = leafNode p.1 p.2) ∨
    (tree.leaves.length ≤ h.val ∧ MergesTheLeast t.node h e ∧ ∃ l r w, e = innerNode l r w) := by
  rcases Nat.lt_or_ge h.val tree.leaves.length with hlt | hge
  · have hp := List.getElem?_eq_getElem (hb.length_leaves ▸ hlt)
    exact .inl ⟨hlt, _, hp, Option.some.inj (he.symm.trans (hb.leaf h _ hp))⟩
  · obtain ⟨l, r, w, hn, hm⟩ := hb.inner h hge hh
    obtain rfl := Option.some.inj (he.symm.trans hn)
    exact .inr ⟨hge, hm, l, r, w, rfl⟩

/-- The leaves of the tree are the bytes present, or the dummy, and the terminator (R140, R146). -/
theorem TreeBuilt.mem_leaves (hb : TreeBuilt f t tree) : x ∈ tree.leaves ↔
    x = TERM ∨ (∃ b, x = byteSym b ∧ 0 < f b) ∨ (x = DUMMY ∧ ∀ b, f b = 0) := by
  rw [hb.leaves.mem_iff, List.mem_map]
  constructor
  · rintro ⟨⟨y, w⟩, hmem, rfl⟩
    obtain ⟨hx, -⟩ | ⟨b, hx, -, hpos⟩ | ⟨hx, -, hzero⟩ := mem_buildLeaves.mp hmem
    · exact .inl hx
    · exact .inr (.inl ⟨b, hx, hpos⟩)
    · exact .inr (.inr ⟨hx, hzero⟩)
  · rintro (hx | ⟨b, hx, hpos⟩ | ⟨hx, hzero⟩)
    · exact ⟨(x, 0), mem_buildLeaves.mpr (.inl ⟨hx, rfl⟩), rfl⟩
    · exact ⟨(x, f b), mem_buildLeaves.mpr (.inr (.inl ⟨b, hx, rfl, hpos⟩)), rfl⟩
    · exact ⟨(x, 0), mem_buildLeaves.mpr (.inr (.inr ⟨hx, rfl, hzero⟩)), rfl⟩

/-- A leaf weighs its count (R31 (f), R142). -/
theorem weight_of_mem_buildLeaves (hmem : (x, w) ∈ buildLeaves (allBytes.map f)) :
    (x = TERM → w = 0) ∧ ∀ b, x = byteSym b → w = f b := by
  obtain ⟨rfl, rfl⟩ | ⟨b, rfl, rfl, -⟩ | ⟨rfl, rfl, hzero⟩ := mem_buildLeaves.mp hmem
  · exact ⟨fun _ => rfl, fun b hb => absurd hb.symm (byteSym_ne_term b)⟩
  · exact ⟨fun hb => absurd hb (byteSym_ne_term b), fun c hc => byteSym_injective hc ▸ rfl⟩
  · exact ⟨fun hb => absurd hb (byteSym_ne_term 0#8), fun b _ => (hzero b).symm⟩

theorem buildLeaves_getElem_lt {i j : Nat} {p q : Sym × Nat} (hij : i < j) (hp : (buildLeaves (allBytes.map f))[i]? = some p)
    (hq : (buildLeaves (allBytes.map f))[j]? = some q) : p.1.val < q.1.val := by
  obtain ⟨hi, rfl⟩ := List.getElem?_eq_some_iff.mp hp
  obtain ⟨hj, rfl⟩ := List.getElem?_eq_some_iff.mp hq
  exact List.pairwise_iff_getElem.mp (buildLeaves_pairwise f) i j hi hj hij

theorem BuildFrame.keeps (h : BuildFrame s t) : t.ftV = s.ftV ∧ t.ft = s.ft ∧ t.ct = s.ct ∧ KeepsChannel s t ∧
    KeepsHost s t ∧ t.snk = s.snk ∧ t.spos = s.spos := by
  rw [h]; exact ⟨rfl, rfl, rfl, ⟨rfl, rfl, rfl⟩, ⟨rfl, rfl, rfl, rfl⟩, rfl, rfl⟩

end

/-- Settles O29: the queue holds the roots of a forest on the table's leaves, each merge takes its two least, and the one
tree left is the tree built. -/
theorem buildMakesTheTreeOfTheTable : Obligations.BuildMakesTheTreeOfTheTable := by
  intro s hv hok
  obtain ⟨f, hf, hsum⟩ := hok.counts hv
  obtain ⟨t, tree, ht, hb⟩ := buildBody_of_holdsCounts hv hf hsum
  have hframe := (buildBody_frame s).of_eq_ok ht
  obtain ⟨hftV, hft, hct, hchan, hhost, hsnk, hspos⟩ := hframe.keeps
  have hcount := holdsCounts_iff.mp hf
  refine ⟨endOk 0 t, tree, finishUnit_of_eq_ok ht, ((buildBody_bodyFrame s).of_eq_ok ht).endsOk 0, hftV.trans hv, hb.treeV,
    hb.ctV, hb.holds, fun x => ?_, hb.ncnt, hb.root, fun h e hh he hleaf => ?_, fun h e hh he => ?_,
    fun h k e g hhk hk he hg => ?_, fun k e hk he hleaf => ?_, hft, hct, hchan, hhost, hsnk, hspos⟩
  · rw [hb.mem_leaves]
    simp [hcount]
  · obtain ⟨-, p, hp, rfl⟩ | ⟨-, -, l, r, w, rfl⟩ := hb.node_cases hh (node_getElem?_eq_some.mp he)
    · obtain ⟨hterm, hbyte⟩ := weight_of_mem_buildLeaves (List.mem_of_getElem? hp)
      exact ⟨hterm, fun b hx => (hcount b).trans (by rw [← hbyte b hx]; rfl)⟩
    · exact Bool.noConfusion hleaf
  · obtain ⟨hlt, p, hp, rfl⟩ | ⟨hge, -, l, r, w, rfl⟩ := hb.node_cases hh (node_getElem?_eq_some.mp he)
    · exact ⟨iff_of_true rfl hlt, fun _ => ⟨rfl, rfl⟩, fun hleaf => Bool.noConfusion hleaf⟩
    · exact ⟨iff_of_false Bool.false_ne_true (not_lt.mpr hge), fun hleaf => Bool.noConfusion hleaf, fun _ => rfl⟩
  · have hkt : k.val < t.ncnt.val := hk.trans_le (by rw [hb.ncnt]; omega)
    obtain ⟨-, p, hp, rfl⟩ | ⟨hge, -⟩ := hb.node_cases (hhk.trans hkt) (node_getElem?_eq_some.mp he)
    · obtain ⟨-, q, hq, rfl⟩ | ⟨hge, -⟩ := hb.node_cases hkt (node_getElem?_eq_some.mp hg)
      · exact buildLeaves_getElem_lt hhk hp hq
      · omega
    · omega
  · obtain ⟨-, p, hp, rfl⟩ | ⟨-, hm, -⟩ := hb.node_cases hk (node_getElem?_eq_some.mp he)
    · exact Bool.noConfusion hleaf
    · exact hm

section
variable {t : State} {f : Byte → Nat} {tree : Tree}

/-- The terminator's leaf is the last one (R142). -/
theorem buildLeaves_last (f : Byte → Nat) {i : Nat} (hi : i + 1 = (buildLeaves (allBytes.map f)).length) :
    (buildLeaves (allBytes.map f))[i]? = some (TERM, 0) := by
  rw [buildLeaves_eq, List.length_append, List.length_singleton, Nat.add_right_cancel_iff] at hi
  rw [buildLeaves_eq, hi, List.getElem?_concat_length]

/-- With a byte present every leaf before the terminator's is a byte's of positive count (R141). -/
theorem buildLeaves_before_last (hpresent : ∃ b, 0 < f b) {i : Nat} {p : Sym × Nat}
    (hi : i + 1 < (buildLeaves (allBytes.map f)).length) (hp : (buildLeaves (allBytes.map f))[i]? = some p) :
    ∃ b, p = (byteSym b, f b) ∧ 0 < f b := by
  have hlt : p.1.val < TERM.val := buildLeaves_getElem_lt (Nat.lt_sub_of_add_lt hi) hp (buildLeaves_last f (by omega))
  obtain ⟨hx, -⟩ | ⟨b, hx, hw, hb⟩ | ⟨-, -, hzero⟩ := mem_buildLeaves.mp (List.mem_of_getElem? hp)
  · exact absurd (hx ▸ hlt) (lt_irrefl _)
  · exact ⟨b, Prod.ext hx hw, hb⟩
  · obtain ⟨b, hb⟩ := hpresent
    exact absurd (hzero b) hb.ne'

/-- Before the last leaf stands a leaf of a byte present. -/
theorem TreeBuilt.byte_leaf (hb : TreeBuilt f t tree) (hpresent : ∃ b, 0 < f b) {y : NodeIx}
    (hy : y.val + 1 < tree.leaves.length) : ∃ c, t.node[y.val] = some (leafNode (byteSym c) (f c)) ∧ 0 < f c ∧
      (buildLeaves (allBytes.map f))[y.val]? = some (byteSym c, f c) := by
  rw [hb.length_leaves] at hy
  have hp := List.getElem?_eq_getElem (Nat.lt_of_succ_lt hy)
  obtain ⟨c, hpc, hc⟩ := buildLeaves_before_last hpresent hy hp
  rw [hpc] at hp
  exact ⟨c, hb.leaf y _ hp, hc, hp⟩

/-- Before the first merge no node is merged (R141). -/
theorem TreeBuilt.unmerged (hb : TreeBuilt f t tree) {n : NodeIx} (hn : n.val = tree.leaves.length) (y : NodeIx) :
    Unmerged t.node n y := fun j e hj he hleaf => by
  have hp := List.getElem?_eq_getElem (hb.length_leaves ▸ hn ▸ hj)
  obtain rfl := Option.some.inj (he.symm.trans (hb.leaf j _ hp))
  exact Bool.noConfusion hleaf

theorem not_precedes_term {y m : NodeIx} {c : Sym} {k : Nat} (hk : 0 < k) :
    ¬ Precedes y (leafNode c k) m (leafNode TERM 0) := by
  simp only [Precedes, leafNode]
  omega

/-- The first merge takes the terminator's leaf, on the left, and the leaf of a byte, which every other one follows. -/
theorem TreeBuilt.first_children (hb : TreeBuilt f t tree) (hpresent : ∃ b, 0 < f b) {n m : NodeIx}
    (hn : n.val = tree.leaves.length) (hm : m.val + 1 = n.val) :
    ∃ (h : NodeIx) (x : Byte), t.node[h.val] = some (leafNode (byteSym x) (f x)) ∧ 0 < f x ∧
      (buildLeaves (allBytes.map f))[h.val]? = some (byteSym x, f x) ∧
      t.node[n.val] = some (innerNode (some m) (some h) (f x)) ∧
      ∀ (y : NodeIx) (e : Node), y.val < m.val → y ≠ h → t.node[y.val] = some e →
        Precedes h (leafNode (byteSym x) (f x)) y e := by
  have hlen := hb.length_leaves
  have htwo := two_le_length_buildLeaves f
  obtain ⟨l, r, w, hnode, a, b, ea, eb, hl, hr, ha, hbn, hea, heb, hw, -, -, hfirst, hrest⟩ :=
    hb.inner n hn.ge (by rw [hb.ncnt]; omega)
  have hterm : t.node[m.val] = some (leafNode TERM 0) := hb.leaf m _ (buildLeaves_last f (by omega))
  have hbyte {y : NodeIx} (hy : y.val < n.val) (hym : y ≠ m) := hb.byte_leaf hpresent (y := y) (by
    have hne : y.val ≠ m.val := fun h => hym (Fin.ext h)
    omega)
  obtain rfl : a = m := by
    by_contra ham
    obtain ⟨c, hc, hpos, -⟩ := hbyte ha ham
    obtain rfl := Option.some.inj (hea.symm.trans hc)
    by_cases hbm : b = m
    · obtain rfl := hbm
      exact not_precedes_term hpos (Option.some.inj (hterm.symm.trans heb) ▸ hfirst)
    · obtain ⟨d, hd, hpos, -⟩ := hbyte hbn hbm
      obtain rfl := Option.some.inj (heb.symm.trans hd)
      exact not_precedes_term hpos (hrest m _ (by omega) (Ne.symm ham) (Ne.symm hbm) hterm (hb.unmerged hn m))
  obtain rfl := Option.some.inj (hea.symm.trans hterm)
  have hba : b ≠ a := by
    rintro rfl
    obtain rfl := Option.some.inj (heb.symm.trans hterm)
    simp [Precedes] at hfirst
  obtain ⟨x, hx, hfx, hxp⟩ := hbyte hbn hba
  obtain rfl := Option.some.inj (heb.symm.trans hx)
  obtain rfl : l = some a := hl
  obtain rfl : r = some b := hr
  obtain rfl : w = f x := hw.trans (Nat.zero_add _)
  exact ⟨b, x, hx, hfx, hxp, hnode, fun y e hy hyb he =>
    hrest y e (by omega) (Fin.ne_of_lt hy) hyb he (hb.unmerged hn y)⟩

/-- The byte of the first merge is the least frequent one, the smallest among several (R148). -/
theorem TreeBuilt.first_merge (hb : TreeBuilt f t tree) (hpresent : ∃ b, 0 < f b) {n m : NodeIx}
    (hn : n.val = tree.leaves.length) (hm : m.val + 1 = n.val) :
    ∃ (h : NodeIx) (x : Byte), t.node[h.val] = some (leafNode (byteSym x) (f x)) ∧ 0 < f x ∧
      t.node[n.val] = some (innerNode (some m) (some h) (f x)) ∧
      ∀ b, 0 < f b → f x < f b ∨ (f x = f b ∧ x.toNat ≤ b.toNat) := by
  obtain ⟨h, x, hx, hfx, hxp, hnode, hleast⟩ := hb.first_children hpresent hn hm
  refine ⟨h, x, hx, hfx, hnode, fun c hc => ?_⟩
  obtain ⟨i, hi, hip⟩ := List.getElem_of_mem (mem_buildLeaves.mpr (.inr (.inl ⟨c, rfl, rfl, hc⟩)))
  have hyp := List.getElem?_eq_some_iff.mpr ⟨hi, hip⟩
  obtain ⟨y, rfl⟩ : ∃ y : NodeIx, y.val = i := ⟨⟨i, by have := length_buildLeaves_le f; omega⟩, rfl⟩
  by_cases hyh : y = h
  · rw [hyh, hxp, Option.some.injEq, Prod.mk.injEq] at hyp
    obtain ⟨hsym, hcount⟩ := hyp
    exact .inr ⟨hcount, byteSym_injective hsym ▸ le_rfl⟩
  · have hlen := hb.length_leaves
    have hym : y.val ≠ m.val := fun h => by
      rw [h, buildLeaves_last f (by omega), Option.some.injEq, Prod.mk.injEq] at hyp
      omega
    refine (hleast y _ (by omega) hyh (hb.leaf y _ hyp)).imp id fun ⟨hw, hlt⟩ => ⟨hw, ?_⟩
    exact (buildLeaves_getElem_lt hlt hxp hyp).le

end

/-- Settles O32: among the leaves the terminator's alone weighs nothing, and the others stand in the order of their bytes. -/
theorem terminatorIsMergedFirst : Obligations.TerminatorIsMergedFirst := by
  intro s t hv hok hpresent ht
  obtain ⟨f, hf, hsum⟩ := hok.counts hv
  obtain ⟨u, tree, hu, hb⟩ := buildBody_of_holdsCounts hv hf hsum
  obtain rfl := Host.Outcome.next.inj (ht.symm.trans (finishUnit_of_eq_ok hu))
  have hcount := holdsCounts_iff.mp hf
  have hlen := hb.length_leaves
  have hle := length_buildLeaves_le f
  have htwo := two_le_length_buildLeaves f
  have hpos : ∃ b, 0 < f b := by
    obtain ⟨b, c, hc, hpos⟩ := hpresent
    have hlt : b < 256 := (Vector.getElem?_eq_some_iff.mp hc).1
    have hb := hcount (BitVec.ofNat 8 b)
    rw [BitVec.toNat_ofNat, Nat.mod_eq_of_lt hlt, hc, Option.some.injEq, Option.some.injEq] at hb
    exact ⟨_, hb ▸ hpos⟩
  obtain ⟨n, hn⟩ : ∃ n : NodeIx, n.val = tree.leaves.length := ⟨⟨tree.leaves.length, by omega⟩, rfl⟩
  obtain ⟨m, hm⟩ : ∃ m : NodeIx, m.val + 1 = n.val := ⟨⟨n.val - 1, by omega⟩, by simp; omega⟩
  obtain ⟨h, x, hx, hfx, hmerge, hleast⟩ := hb.first_merge hpos hn hm
  have hmn : m.val = n.val - 1 := by omega
  refine ⟨n, h, x, f x, by rw [hn]; exact hb.ncnt, ?_, node_getElem?_eq_some.mpr hx, hcount x,
    ⟨m, hmn, node_getElem?_eq_some.mpr hmerge⟩, hfx, fun b c hc hpos => ?_⟩
  · rw [← hmn]
    exact node_getElem?_eq_some.mpr (hb.leaf m _ (buildLeaves_last f (by omega)))
  · rw [hcount b, Option.some.injEq, Option.some.injEq] at hc
    exact hc ▸ hleast b (hc ▸ hpos)

end Sys2Proof.Machine
end

section
/-! PROOF. The symbols `DECOMPRESS` decodes and pushes, code by code (46_decoder.md R201 to R206). -/

namespace Sys2Proof.Machine

theorem Res.All.and {α : Type} {P Q : State → Prop} {r : Res α} (h : r.All P) (k : r.All Q) :
    r.All fun t => P t ∧ Q t := by
  cases r with
  | ok a t => exact ⟨h, k⟩
  | raise f t => exact ⟨h, k⟩
  | stuck e => trivial

theorem symByte_byteSym (b : Byte) : symByte (byteSym b) = b :=
  BitVec.eq_of_toNat_eq (Nat.mod_eq_of_lt b.isLt)

section
variable {tree : Tree} {s t u : State} {l m c : List Bool} {out out' : List Byte} {b : Byte} {x : Sym}

/-! ## Codes -/

theorem Tree.entry_of_code (hc : tree.code? x = some c) : (tree.entry x).code = c := by rw [Tree.entry, hc]

theorem Tree.codes_cons (hc : tree.code? (byteSym b) = some c) (out : List Byte) :
    tree.codes (b :: out) = c ++ tree.codes out := by
  rw [Tree.codes, List.flatMap_cons, Tree.entry_of_code hc, Tree.codes]

theorem Tree.codes_append (tree : Tree) (out out' : List Byte) :
    tree.codes (out ++ out') = tree.codes out ++ tree.codes out' :=
  List.flatMap_append

/-- A valid tree with a byte's leaf gives no empty code (R157). -/
theorem Tree.Wf.code_ne_nil (hwf : tree.Wf) (hc : tree.code? (byteSym b) = some c) : c ≠ [] := by
  refine Tree.code_ne_nil (fun hsize => ?_) hc
  cases tree with
  | leaf y =>
    obtain rfl : TERM = y := by simpa [Tree.leaves] using hwf.2
    simp [Tree.code?, byteSym_ne_term] at hc
  | node l r => cases l <;> simp [Tree.size] at hsize

theorem Tree.Wf.length_le_codes (hwf : tree.Wf) (hout : ∀ b ∈ out, ∃ c, tree.code? (byteSym b) = some c) :
    out.length ≤ (tree.codes out).length := by
  induction out with
  | nil => exact Nat.le_refl _
  | cons b out ih =>
    obtain ⟨⟨c, hc⟩, hout⟩ := List.forall_mem_cons.mp hout
    have hpos := List.length_pos_of_ne_nil (hwf.code_ne_nil hc)
    have := ih hout
    rw [Tree.codes_cons hc, List.length_cons, List.length_append]
    omega

/-- The terminator has a code in a valid tree (R31 (d)). -/
theorem Tree.Wf.term_code (hwf : tree.Wf) : ∃ c, tree.code? TERM = some c := by
  cases h : tree.code? TERM with
  | some c => exact ⟨c, rfl⟩
  | none => exact absurd hwf.2 ((tree.code?_eq_none_iff TERM).mp h)

/-! ## One symbol -/

theorem hasRoom_congr (h : t.snk = s.snk) (n : Nat) : hasRoom n t = hasRoom n s := by unfold hasRoom; rw [h]

theorem pushFails_congr (h : t.snk = s.snk) : pushFails t = pushFails s := by unfold pushFails; rw [h]

/-- The channel is open for reading and the arena's tree is valid: symbols may be decoded (R201). -/
structure Decoding (tree : Tree) (s : State) : Prop where
  dir : s.dir = .read
  cnt : s.cnt.val ≤ 7
  treeV : s.treeV = true
  tree? : ∃ hs, s.tree? = some (tree, hs)

/-- The bits `l` were taken and the bytes `out` pushed. -/
structure Decoded (l : List Bool) (out : List Byte) (s t : State) : Prop where
  consumes : Consumes l s t
  snk : t.snk = { s.snk with data := s.snk.data ++ out }

theorem Decoded.trans (h : Decoded l out s t) (k : Decoded m out' t u) : Decoded (l ++ m) (out ++ out') s u where
  consumes := h.consumes.trans k.consumes
  snk := by rw [k.snk, h.snk, List.append_assoc]

theorem Reads.decoded (h : Reads l s t) : Decoded l [] s t where
  consumes := h.consumes
  snk := by rw [h.frame, List.append_nil]

theorem Decoded.trans_nil (h : Decoded l out s t) (k : Decoded m [] t u) : Decoded (l ++ m) out s u := by
  simpa using h.trans k

theorem Decoded.refl (s : State) : Decoded [] [] s s := (Reads.refl s).decoded

theorem Decoding.of_frame (h : Decoding tree s) (k : ReadFrame s t) (hc : t.cnt.val ≤ 7) : Decoding tree t where
  dir := k.dir_eq.trans h.dir
  cnt := hc
  treeV := by rw [k]; exact h.treeV
  tree? := by rw [k]; exact h.tree?

theorem Decoding.channelOk (h : Decoding tree s) : ChannelOk s := .of_read h.dir h.cnt

theorem Decoding.pushed (h : Decoding tree s) (d : List Byte) : Decoding tree (s.withSnkData d) :=
  ⟨h.dir, h.cnt, h.treeV, h.tree?⟩

theorem pushed_decoded (s : State) (b : Byte) : Decoded [] [b] s (s.withSnkData (s.snk.data ++ [b])) :=
  ⟨.of_eq rfl rfl rfl rfl, rfl⟩

theorem Decoding.getsym (h : Decoding tree s) (hc : tree.code? x = some c) (hm : s.readable = c ++ m) :
    ∃ t, getsymBody s = .ok x t ∧ Decoded c [] s t ∧ Decoding tree t ∧ t.readable = m := by
  obtain ⟨hs, htree⟩ := h.tree?
  obtain ⟨t, ht, hreads⟩ := getsymBody_of_code h.dir h.treeV htree hc hm
  have hdir := hreads.frame.dir_eq.trans h.dir
  obtain ⟨-, -, hok⟩ := (getsymBody_kept s).of_eq_ok ht h.channelOk
  exact ⟨t, ht, hreads.decoded, h.of_frame hreads.frame (hok hdir), List.append_cancel_left (hreads.readable.symm.trans hm)⟩

/-! ## The loop -/

theorem decodeLoop_of_symbol (hr : getsymBody s = .ok (byteSym b) t) (n : Nat) :
    decodeLoop (n + 1) s = (snkPush b t).bind fun _ t => decodeLoop n t := by
  rw [decodeLoop, hr, Res.bind_ok, if_neg (byteSym_ne_term b), symByte_byteSym]

/-- One turn for a byte that the sink takes. -/
theorem Decoding.turn (h : Decoding tree s) (hc : tree.code? (byteSym b) = some c) (hm : s.readable = c ++ m)
    (hp : pushFails s = false) :
    ∃ t, (∀ n, decodeLoop (n + 1) s = decodeLoop n t) ∧ Decoded c [b] s t ∧ Decoding tree t ∧ t.readable = m := by
  obtain ⟨t, ht, hdec, hing, hrest⟩ := h.getsym hc hm
  have hsnk : t.snk = s.snk := by rw [hdec.snk, List.append_nil]
  have hp' : pushFails t = false := (pushFails_congr hsnk).trans hp
  refine ⟨t.withSnkData (t.snk.data ++ [b]), fun n => ?_, ?_, hing.pushed _, hrest⟩
  · rw [decodeLoop_of_symbol ht, snkPush_of_not_pushFails hp', Res.bind_ok]
  · simpa using hdec.trans (pushed_decoded t b)

/-- A turn for each byte that the sink has room for. -/
theorem Decoding.turns (h : Decoding tree s) (hout : ∀ b ∈ out, ∃ c, tree.code? (byteSym b) = some c)
    (hm : s.readable = tree.codes out ++ m) (hroom : hasRoom out.length s = true) :
    ∃ t, (∀ n, decodeLoop (n + out.length) s = decodeLoop n t) ∧ Decoded (tree.codes out) out s t ∧ Decoding tree t ∧
      t.readable = m := by
  induction out generalizing s with
  | nil => exact ⟨s, fun _ => rfl, .refl s, h, hm⟩
  | cons b out ih =>
    obtain ⟨⟨c, hc⟩, hout⟩ := List.forall_mem_cons.mp hout
    rw [Tree.codes_cons hc, List.append_assoc] at hm
    rw [List.length_cons, hasRoom_succ (v := b) (t := s.withSnkData (s.snk.data ++ [b])) rfl, Bool.and_eq_true,
      Bool.not_eq_true'] at hroom
    obtain ⟨hp, hroom⟩ := hroom
    obtain ⟨t, hturn, hdec, hing, hrest⟩ := h.turn hc hm hp
    have hroom' : hasRoom out.length t = true := (hasRoom_congr hdec.snk out.length).trans hroom
    obtain ⟨u, hturns, hdecs, hings, hrests⟩ := ih hing hout hrest hroom'
    refine ⟨u, fun n => ?_, ?_, hings, hrests⟩
    · rw [List.length_cons, ← Nat.add_assoc, hturn, hturns]
    · rw [Tree.codes_cons hc]
      exact hdec.trans hdecs

/-- The turn of the terminator is the last (R203). -/
theorem Decoding.stops (h : Decoding tree s) (hc : tree.code? TERM = some c) (hm : s.readable = c ++ m) (n : Nat) :
    ∃ t, decodeLoop (n + 1) s = .ok () t ∧ Decoded c [] s t ∧ Decoding tree t := by
  obtain ⟨t, ht, hdec, hing, -⟩ := h.getsym hc hm
  exact ⟨t, by rw [decodeLoop, ht, Res.bind_ok, if_pos rfl], hdec, hing⟩

/-- A turn for a byte that the sink does not take (R205). -/
theorem Decoding.loses (h : Decoding tree s) (hc : tree.code? (byteSym b) = some c) (hm : s.readable = c ++ m)
    (hp : pushFails s = true) (n : Nat) :
    ∃ t, decodeLoop (n + 1) s = .raise .ioError t ∧ Decoded c [] s t ∧ Decoding tree t := by
  obtain ⟨t, ht, hdec, hing, -⟩ := h.getsym hc hm
  have hsnk : t.snk = s.snk := by rw [hdec.snk, List.append_nil]
  have hp' : pushFails t = true := (pushFails_congr hsnk).trans hp
  exact ⟨t, by rw [decodeLoop_of_symbol ht, snkPush_of_pushFails hp', Res.bind_raise], hdec, hing⟩

/-- A turn where the bits end inside a code (R201, R205). -/
theorem Decoding.cut (h : Decoding tree s) (hwf : tree.Wf) (hno : ∀ x c, tree.code? x = some c → ¬ c <+: s.readable)
    (n : Nat) :
    ∃ t, decodeLoop (n + 1) s = .raise (if pullFails t then .ioError else .truncatedStream) t ∧ Decoded s.readable [] s t ∧
      RunsOut s t := by
  obtain ⟨hs, htree⟩ := h.tree?
  obtain ⟨t, ht, hreads, hcnt⟩ := getsymBody_of_no_code h.dir h.treeV htree hwf.1 hno
  exact ⟨t, by rw [decodeLoop, ht, Res.bind_raise], hreads.decoded, hreads.consumes, hcnt⟩

end

end Sys2Proof.Machine
end

section
/-! PROOF. `DECOMPRESS` (46_decoder.md R203 to R206): the header, the symbols, and where `SPOS` stands at the end. -/

namespace Sys2Proof.Machine

section
variable {tree : Tree} {s t d : State} {l m c rest : List Bool} {out : List Byte} {b : Byte} {f : Failure}

/-! ## Where the read position stands -/

theorem length_unread (hc : t.cnt.val ≤ 7) : t.unread.length = t.cnt.val + 8 * (t.src.data.length - t.spos) := by
  rw [State.unread, List.length_append, length_streamBits, List.length_drop, List.length_drop, length_byteBits]
  omega

/-- The bits taken since byte 0, and those waiting in the buffer, are those of the bytes pulled (R24). -/
theorem Consumes.bits_eq (h : Consumes l s.opened t) (hc : t.cnt.val ≤ 7) : l.length + t.cnt.val = 8 * t.spos := by
  have hunread := congrArg List.length h.unread
  have hopened : s.opened.unread.length = 8 * s.src.data.length := by
    rw [length_unread (Nat.zero_le 7)]; exact Nat.zero_add _
  have hspos : t.spos ≤ t.src.data.length := h.spos_le (Nat.zero_le _)
  have hlen : t.src.data.length = s.src.data.length := congrArg (fun r : Source => r.data.length) h.src
  rw [List.length_append, hopened, length_unread hc, hlen] at hunread
  omega

theorem Consumes.spos_eq (h : Consumes l s.opened t) (hc : t.cnt.val ≤ 7) : t.spos = (l.length + 7) / 8 := by
  have := h.bits_eq hc
  omega

theorem RunsOut.spos_eq (h : RunsOut s.opened t) : t.spos = s.opened.readable.length / 8 := by
  have := h.consumes.bits_eq (by rw [h.cnt]; exact Nat.zero_le 7)
  rw [h.cnt] at this
  omega

theorem length_opened_readable_le (s : State) : s.opened.readable.length ≤ 8 * s.src.data.length := by
  have hempty : ((byteBits s.opened.buf).drop (8 - s.opened.cnt.val)).length = 0 := rfl
  rw [State.readable, List.length_append, hempty]
  split
  · rw [length_streamBits, List.length_drop, List.length_take]
    have : s.opened.src.data.length = s.src.data.length := rfl
    omega
  · simp

/-! ## The steps -/

/-- What `DECOMPRESS` leaves, for the state its decoding ends in. -/
def State.decompressed (t : State) : State := (closeChan t).withFlags false false false

theorem decompressBody_of_destree_raise (hd : s.dir = .closed) (hsrc : s.src.present = true) (hsnk : s.snk.present = true)
    (h : destreeBody s.opened = .raise f t) : decompressBody s = .raise f t.decompressed := by
  rw [decompressBody_eq hd hsrc hsnk, decompressSteps, openrBody_of_source hd hsrc, Res.bind_ok, h]
  rfl

/-- Behind a valid header the symbols are decoded (R203). -/
theorem decompressBody_of_header (hd : s.dir = .closed) (hsrc : s.src.present = true) (hsnk : s.snk.present = true)
    (hwf : tree.Wf) (hm : s.opened.readable = tree.header ++ m) :
    ∃ d, Decoded tree.header [] s.opened d ∧ Decoding tree d ∧ d.readable = m ∧
      decompressBody s = ((decodeLoop (8 * s.src.data.length + 1) d).bind fun _ t => closeBody t).finally State.decompressed := by
  obtain ⟨hs, d, hdes, h⟩ := destreeBody_of_header (s := s.opened) rfl hwf hm
  have hframe := (destreeBody_frame s.opened).of_eq_ok hdes
  obtain ⟨-, -, -, hdir, ⟨-, hsrc', -⟩, hsnk'⟩ := hframe.keeps
  have hdir' : d.dir = .read := hdir
  obtain ⟨-, -, hok⟩ := (destreeBody_kept s.opened).of_eq_ok hdes (.of_read rfl (Nat.zero_le 7))
  refine ⟨d, ⟨h.consumes, by rw [hsnk', List.append_nil]⟩, ⟨hdir', hok hdir', h.treeV, hs, h.tree?⟩,
    List.append_cancel_left (h.consumes.readable.symm.trans hm), ?_⟩
  have hlen : d.src.data.length = s.src.data.length := congrArg (fun r : Source => r.data.length) hsrc'
  rw [decompressBody_eq hd hsrc hsnk, decompressSteps, openrBody_of_source hd hsrc, Res.bind_ok, hdes, Res.bind_ok, hlen]
  rfl

theorem decompressBody_of_decode_ok {n : Nat}
    (hbody : decompressBody s = ((decodeLoop n d).bind fun _ t => closeBody t).finally State.decompressed)
    (h : decodeLoop n d = .ok () t) (hd : t.dir = .read) :
    decompressBody s = .ok () t.decompressed := by
  rw [hbody, h, Res.bind_ok, closeBody_of_nothing_buffered (.inl (by simp [hd])), Res.finally_ok]
  rfl

theorem decompressBody_of_decode_raise {n : Nat}
    (hbody : decompressBody s = ((decodeLoop n d).bind fun _ t => closeBody t).finally State.decompressed)
    (h : decodeLoop n d = .raise f t) : decompressBody s = .raise f t.decompressed := by
  rw [hbody, h, Res.bind_raise, Res.finally_raise]

/-! ## The symbols behind a header -/

/-- Behind a header, the bytes whose codes follow are decoded and pushed where the sink has room, and the loop has turns
left (R206). -/
theorem decompressBody_of_codes (hd : s.dir = .closed) (hsrc : s.src.present = true) (hsnk : s.snk.present = true)
    (hwf : tree.Wf) (hout : ∀ b ∈ out, ∃ c, tree.code? (byteSym b) = some c)
    (hm : s.opened.readable = tree.header ++ tree.codes out ++ m) (hroom : hasRoom out.length s = true) :
    ∃ n d, Decoded (tree.header ++ tree.codes out) out s.opened d ∧ Decoding tree d ∧ d.readable = m ∧
      decompressBody s = ((decodeLoop (n + 1) d).bind fun _ t => closeBody t).finally State.decompressed := by
  rw [List.append_assoc] at hm
  have hle := length_opened_readable_le s
  rw [hm, List.length_append, List.length_append] at hle
  have hcodes := hwf.length_le_codes hout
  obtain ⟨n, hn⟩ : ∃ n, 8 * s.src.data.length + 1 = n + 1 + out.length :=
    ⟨8 * s.src.data.length - out.length, by omega⟩
  obtain ⟨d, hdec, hing, hrest, hbody⟩ := decompressBody_of_header hd hsrc hsnk hwf hm
  have hsnk' : d.snk = s.snk := by rw [hdec.snk, List.append_nil]; rfl
  obtain ⟨t, hturns, hdecs, hings, hrests⟩ := hing.turns hout hrest ((hasRoom_congr hsnk' _).trans hroom)
  refine ⟨n, t, hdec.trans hdecs, hings, hrests, ?_⟩
  rw [hbody, hn, hturns]

/-- What a `DECOMPRESS` that has started leaves alone, and what it clears (R205, R224). -/
theorem decompressBody_ends (hd : s.dir = .closed) (hsrc : s.src.present = true) (hsnk : s.snk.present = true) :
    (decompressBody s).All fun t => BodyFrame s t ∧ KeepsFtCt s t ∧ Released t := by
  have hrel : (decompressBody s).All Released := decompressBody_eq hd hsrc hsnk ▸ Res.finally_released closeChan_released
  exact (decompressBody_bodyFrame s).and ((decompressBody_keepsFtCt s).and hrel)

end

/-- Settles O51: after the header each code is a turn of the loop, and the terminator's is the last. -/
theorem decompressStopsAtTheTerminator : Obligations.DecompressStopsAtTheTerminator := by
  intro s tree out rest hd hsrc hsnk hroom hwf hout hm
  obtain ⟨c, hc⟩ := hwf.term_code
  rw [Tree.payload, Tree.entry_of_code hc, ← List.append_assoc, List.append_assoc] at hm
  obtain ⟨n, d, hdec, hing, hrest, hbody⟩ := decompressBody_of_codes hd hsrc hsnk hwf hout hm hroom
  obtain ⟨t, hstop, hdec', hing'⟩ := hing.stops hc hrest n
  have hres := decompressBody_of_decode_ok hbody hstop hing'.dir
  obtain ⟨hframe, ⟨hft, hct⟩, hdir, hbuf, hcnt, hftV, htreeV, hctV⟩ := (decompressBody_ends hd hsrc hsnk).of_eq_ok hres
  have hall := hdec.trans_nil hdec'
  refine ⟨_, finishUnit_of_eq_ok hres, hframe.endsOk 0, hall.snk, ?_, hdir, hbuf, hcnt, hftV, htreeV, hctV, hft, hct,
    hframe.cfg, hframe.src, hframe.inbox, hframe.hdr⟩
  have hspos := hall.consumes.spos_eq hing'.cnt
  rw [List.length_append, List.length_append, Nat.add_assoc tree.header.length, ← List.length_append] at hspos
  rw [Tree.payload, Tree.entry_of_code hc]
  exact hspos

/-- Where a sink with a capacity has no room for `n` bytes it has room for those up to its capacity, fewer than `n` (R54). -/
theorem room_to_capacity {s : State} {c n : Nat} (hsnk : s.snk.present = true) (hcap : s.snk.cap = some c)
    (h : hasRoom n s = false) : s.snk.data.length ≤ c ∧ c - s.snk.data.length < n ∧
      hasRoom (c - s.snk.data.length) s = true := by
  simp only [hasRoom, hsnk, hcap, Bool.true_and, Bool.or_eq_false_iff, decide_eq_false_iff_not, Bool.or_eq_true,
    decide_eq_true_eq] at h ⊢
  omega

section
variable {s : State} {tree : Tree} {out : List Byte} {rest : List Bool} {c : Nat}

/-- A header that is not valid fails `DECOMPRESS` with nothing pushed (R205). -/
theorem decompressBody_of_no_header (hd : s.dir = .closed) (hsrc : s.src.present = true) (hsnk : s.snk.present = true)
    (hno : ∀ (tree : Tree) (l : List Bool), tree.Wf → s.opened.readable ≠ tree.header ++ l) :
    ∃ (u : State) (f : Failure), decompressBody s = .raise f u.decompressed ∧
      (f = .corruptHeader ∨ (f = .ioError ∧ readsIntoError s.opened = true)) ∧
      (∀ (tree : Tree) (l : List Bool), tree.Wf → tree.header = s.opened.readable ++ l →
        f = if readsIntoError s.opened then .ioError else .corruptHeader) ∧
      (f = .ioError → u.spos = s.opened.readable.length / 8) ∧ u.snk = s.snk := by
  have fails {f : Failure} {u : State} (hu : destreeBody s.opened = .raise f u) :
      decompressBody s = .raise f u.decompressed ∧ (∀ (tree : Tree) (l : List Bool), tree.Wf →
        tree.header = s.opened.readable ++ l → f = if readsIntoError s.opened then .ioError else .corruptHeader) ∧
      u.snk = s.snk := by
    obtain ⟨-, -, -, -, -, hsnk'⟩ := ((destreeBody_frame s.opened).of_eq_raise hu).keeps
    refine ⟨decompressBody_of_destree_raise hd hsrc hsnk hu, fun tree l hwf hl => ?_, hsnk'⟩
    have hne : l ≠ [] := fun h => hno tree [] hwf (by rw [hl, h, List.append_nil, List.append_nil])
    obtain ⟨v, hv, hout⟩ := destreeBody_of_cut_header (s := s.opened) rfl hwf hl hne
    obtain ⟨hf, -⟩ := Res.raise.inj (hu.symm.trans hv)
    rw [hf, hout.onEnd_eq (Nat.zero_le _)]
  rcases destreeBody_of_no_header (s := s.opened) rfl hno with ⟨u, hu⟩ | ⟨u, hu, hout⟩
  · obtain ⟨hbody, hcut, hsnk'⟩ := fails hu
    exact ⟨u, _, hbody, .inl rfl, hcut, nofun, hsnk'⟩
  · obtain ⟨hbody, hcut, hsnk'⟩ := fails hu
    refine ⟨u, _, hbody, ?_, hcut, fun _ => hout.spos_eq, hsnk'⟩
    rw [hout.onEnd_eq (Nat.zero_le _)]
    cases readsIntoError s.opened
    · exact .inl rfl
    · exact .inr ⟨rfl, rfl⟩

/-- A payload that ends inside a code (R205). -/
theorem decompressBody_of_cut_payload (hd : s.dir = .closed) (hsrc : s.src.present = true) (hsnk : s.snk.present = true)
    (hwf : tree.Wf) (hout : ∀ b ∈ out, ∃ c, tree.code? (byteSym b) = some c)
    (hm : s.opened.readable = tree.header ++ tree.codes out ++ rest) (hroom : hasRoom out.length s = true)
    (hno : ∀ x c, tree.code? x = some c → ¬ c <+: rest) :
    ∃ u : State, decompressBody s = .raise (if readsIntoError s.opened then .ioError else .truncatedStream) u.decompressed ∧
      u.snk = { s.snk with data := s.snk.data ++ out } ∧ u.spos = s.opened.readable.length / 8 := by
  obtain ⟨n, d, hdec, hing, rfl, hbody⟩ := decompressBody_of_codes hd hsrc hsnk hwf hout hm hroom
  obtain ⟨u, hcut, hdec', hout'⟩ := hing.cut hwf hno n
  have hends := hout'.after hdec.consumes
  rw [hends.pullFails_eq (Nat.zero_le _)] at hcut
  exact ⟨u, decompressBody_of_decode_raise hbody hcut, (hdec.trans_nil hdec').snk, hends.spos_eq⟩

/-- A push that fails: nothing is read after the code of the byte it loses (R205). -/
theorem decompressBody_of_full_sink (hd : s.dir = .closed) (hsrc : s.src.present = true) (hsnk : s.snk.present = true)
    (hwf : tree.Wf) (hout : ∀ b ∈ out, ∃ c, tree.code? (byteSym b) = some c)
    (hm : s.opened.readable = tree.header ++ tree.codes out ++ rest) (hcap : s.snk.cap = some c)
    (hroom : hasRoom out.length s = false) :
    ∃ u : State, decompressBody s = .raise .ioError u.decompressed ∧
      u.snk = { s.snk with data := s.snk.data ++ out.take (c - s.snk.data.length) } ∧
      u.spos = (tree.header.length + (tree.codes (out.take (c - s.snk.data.length + 1))).length + 7) / 8 := by
  obtain ⟨hle, hlt, hroom'⟩ := room_to_capacity hsnk hcap hroom
  generalize hk : c - s.snk.data.length = k at hlt hroom' ⊢
  have hlen : (out.take k).length = k := by rw [List.length_take, min_eq_left hlt.le]
  have hsplit : out = out.take k ++ out[k] :: out.drop (k + 1) := by simp
  obtain ⟨e, he⟩ := hout out[k] (List.getElem_mem hlt)
  have hcodes : tree.codes out = tree.codes (out.take k) ++ (e ++ tree.codes (out.drop (k + 1))) := by
    rw [← Tree.codes_cons he, ← Tree.codes_append, ← hsplit]
  have hlost : tree.codes (out.take (k + 1)) = tree.codes (out.take k) ++ e := by
    rw [List.take_succ_eq_append_getElem hlt, Tree.codes_append, Tree.codes_cons he]
    simp [Tree.codes]
  rw [hcodes, ← List.append_assoc, List.append_assoc] at hm
  obtain ⟨n, d, hdec, hing, hrest, hbody⟩ := decompressBody_of_codes hd hsrc hsnk hwf
    (fun b hb => hout b (List.mem_of_mem_take hb)) hm (by rwa [hlen])
  have hp : pushFails d = true := by
    rw [pushFails_iff, hdec.snk]
    refine .inr (hcap.trans (congrArg some ?_))
    have : s.opened.snk.data.length = s.snk.data.length := rfl
    rw [List.length_append, hlen]
    omega
  rw [List.append_assoc] at hrest
  obtain ⟨u, hlose, hdec', hing'⟩ := hing.loses he hrest hp n
  have hall := hdec.trans_nil hdec'
  have hspos := hall.consumes.spos_eq hing'.cnt
  rw [List.append_assoc, ← hlost, List.length_append] at hspos
  exact ⟨u, decompressBody_of_decode_raise hbody hlose, hall.snk, hspos⟩

theorem exec_decompress_of_raise {f : Failure} {u : State} (hd : s.dir = .closed) (hsrc : s.src.present = true)
    (hsnk : s.snk.present = true) (h : decompressBody s = .raise f u.decompressed) :
    ∃ t, exec .decompress s = .next t ∧ EndsFailed f s t ∧ t.snk = u.snk ∧ t.spos = u.spos ∧ t.dir = .closed ∧
      t.buf = 0#8 ∧ t.cnt.val = 0 ∧ t.ftV = false ∧ t.treeV = false ∧ t.ctV = false ∧ t.ft = s.ft ∧ t.ct = s.ct ∧
      KeepsHost s t := by
  obtain ⟨hframe, ⟨hft, hct⟩, hdir, hbuf, hcnt, hftV, htreeV, hctV⟩ := (decompressBody_ends hd hsrc hsnk).of_eq_raise h
  exact ⟨_, finishUnit_of_eq_raise h, hframe.endsFailed f, rfl, rfl, hdir, hbuf, hcnt, hftV, htreeV, hctV, hft, hct,
    hframe.cfg, hframe.src, hframe.inbox, hframe.hdr⟩

end

/-- Settles O52: the header fails, or the turn after those of the bytes decoded does. -/
theorem decompressReportsBadStreams : Obligations.DecompressReportsBadStreams := by
  intro s hd hsrc hsnk
  refine ⟨fun hno => ?_, fun tree out rest hwf hout hm => ⟨fun hroom hno => ?_, fun c hcap hroom => ?_⟩⟩
  · obtain ⟨u, f, hbody, hf, hcut, hspos, hsnk'⟩ := decompressBody_of_no_header hd hsrc hsnk hno
    obtain ⟨t, ht, hends, hts, htp, hrest⟩ := exec_decompress_of_raise hd hsrc hsnk hbody
    exact ⟨t, f, ht, hends, hf, hcut, fun h => htp.trans (hspos h), hts.trans hsnk', hrest⟩
  · obtain ⟨u, hbody, hsnk', hspos⟩ := decompressBody_of_cut_payload hd hsrc hsnk hwf hout hm hroom hno
    obtain ⟨t, ht, hends, hts, htp, hrest⟩ := exec_decompress_of_raise hd hsrc hsnk hbody
    exact ⟨t, ht, hends, hts.trans hsnk', htp.trans hspos, hrest⟩
  · obtain ⟨u, hbody, hsnk', hspos⟩ := decompressBody_of_full_sink hd hsrc hsnk hwf hout hm hcap hroom
    obtain ⟨t, ht, hends, hts, htp, hrest⟩ := exec_decompress_of_raise hd hsrc hsnk hbody
    exact ⟨t, ht, hends, hts.trans hsnk', htp.trans hspos, hrest⟩

end Sys2Proof.Machine
end

section
/-! PROOF. A write channel from its opening to its end (10_state.md R25; 40_bitchannel.md R113, R115, R122; 20_memory.md
R63, R66): what the bits written so far have made of channel and sink. -/

namespace Sys2Proof.Machine

/-! ## The fields `COMPRESS` writes while it encodes -/

/-- Only the buffer, `SPOS` and the sink's bytes may differ. -/
def EncodeFrame (s t : State) : Prop :=
  t = { s with buf := t.buf, cnt := t.cnt, spos := t.spos, snk := { s.snk with data := t.snk.data } }

/-- The state with the channel opened for writing, as `OPENW` leaves it (R117). -/
def State.openedToWrite (s : State) : State := s.withChan .write 0#8 ⟨0, by decide⟩

section
variable {s t u w : State} {l m : List Bool} {n c : Nat}

theorem EncodeFrame.refl (s : State) : EncodeFrame s s := rfl

theorem EncodeFrame.trans (h : EncodeFrame s t) (k : EncodeFrame t u) : EncodeFrame s u := by
  unfold EncodeFrame at *
  rw [k, h]

theorem WriteFrame.encode (h : WriteFrame s t) : EncodeFrame s t := by rw [h]; exact rfl

theorem WriteFrame.spos_eq (h : WriteFrame s t) : t.spos = s.spos := by rw [h]

theorem withSpos_frame (s : State) (n : Nat) : EncodeFrame s (s.withSpos n) := rfl

/-- The bits `l` have been written since the channel was opened in `w`, none lost (R66). -/
structure Wrote (w : State) (l : List Bool) (t : State) : Prop where
  frame : EncodeFrame w t
  dir : t.dir = .write
  bits : t.written = streamBits w.snk.data ++ l
  cnt : t.cnt.val = l.length % 8
  len : t.snk.data.length = w.snk.data.length + l.length / 8
  ok : ChannelOk t
  room : hasRoom (l.length / 8) w = true

/-- A push failed while the bits `l` were written: the sink holds the bytes pushed before it (R113). -/
structure Lost (w : State) (l : List Bool) (t : State) : Prop where
  frame : EncodeFrame w t
  data : w.snk.data <+: t.snk.data
  bits : streamBits t.snk.data <+: streamBits w.snk.data ++ l
  full : pushFails t = true

theorem wrote_nil (s : State) : Wrote s.openedToWrite [] s.openedToWrite where
  frame := .refl _
  dir := rfl
  bits := rfl
  cnt := rfl
  len := rfl
  ok := ⟨fun _ => ⟨rfl, rfl⟩, fun _ => ⟨Nat.zero_le 7, fun _ _ => BitVec.getLsbD_zero⟩, fun h => Dir.noConfusion h⟩
  room := rfl

theorem Wrote.cnt_le (h : Wrote w l t) : t.cnt.val ≤ 7 := by
  have := h.cnt
  omega

/-- Room for bytes in a sink that has taken others (R54). -/
theorem hasRoom_add {a b : Nat} (hsnk : t.snk = { w.snk with data := t.snk.data })
    (hlen : t.snk.data.length = w.snk.data.length + a) (ha : hasRoom a w = true) : hasRoom b t = hasRoom (a + b) w := by
  unfold hasRoom at ha ⊢
  rw [hsnk]
  simp only [hlen]
  cases hp : w.snk.present with
  | false => simp [hp] at ha ⊢; omega
  | true =>
    cases hc : w.snk.cap with
    | none => simp
    | some c =>
      rw [hp, hc] at ha
      simp only [Bool.true_and, Bool.or_eq_true, decide_eq_true_eq] at ha
      rw [Bool.eq_iff_iff]
      simp only [Bool.true_and, Bool.or_eq_true, decide_eq_true_eq]
      omega

theorem Wrote.data_prefix (h : Wrote w l t) : w.snk.data <+: t.snk.data := by
  have hs : streamBits w.snk.data <+: t.written := h.bits ▸ List.prefix_append _ _
  have ht : streamBits t.snk.data <+: t.written := List.prefix_append _ _
  have hlen := h.len
  exact prefix_of_streamBits_prefix (List.prefix_of_prefix_length_le hs ht (by simp only [length_streamBits]; omega))

/-- The bits written, filled up to whole bytes, are the packed bytes behind those the sink held (R63). -/
theorem Wrote.data_eq (h : Wrote w l t) {d : List Byte} (hn : n < 8)
    (hd : streamBits d = t.written ++ List.replicate n false) : d = w.snk.data ++ pack l := by
  rw [h.bits, List.append_assoc] at hd
  obtain ⟨e, rfl⟩ : w.snk.data <+: d := prefix_of_streamBits_prefix (hd ▸ List.prefix_append _ _)
  rw [streamBits_append] at hd
  rw [eq_pack hn (List.append_cancel_left hd)]

theorem Wrote.room_add (h : Wrote w l t) (m : List Bool) :
    hasRoom ((t.cnt.val + m.length) / 8) t = hasRoom ((l ++ m).length / 8) w := by
  have hsnk : t.snk = { w.snk with data := t.snk.data } := by rw [h.frame]
  have hcnt := h.cnt
  rw [hasRoom_add hsnk h.len h.room, List.length_append]
  congr 1
  omega

/-- More bits are written, or a push fails among them. -/
theorem Wrote.write (h : Wrote w l t) (m : List Bool) :
    (hasRoom ((l ++ m).length / 8) w = true ∧ ∃ u, writeBits m t = .ok () u ∧ Wrote w (l ++ m) u ∧ u.spos = t.spos) ∨
    (hasRoom ((l ++ m).length / 8) w = false ∧
      ∃ u, writeBits m t = .raise .ioError u ∧ Lost w (l ++ m) u ∧ u.cnt.val = 0 ∧ u.spos = t.spos) := by
  have hcnt := h.cnt
  have hlen := h.len
  have hok := writeBits_channelOk m h.dir h.ok
  have hframe := writeBits_frame m t
  have hdata := h.data_prefix
  rw [← h.room_add m]
  rcases writeBits_ends m h.dir h.cnt_le with ⟨hroom, u, hu, happ⟩ | ⟨hroom, u, hu, hlost⟩
  · obtain ⟨hbits, -, hl, -⟩ := id happ
    refine .inl ⟨hroom, u, hu, ?_, (hframe.of_eq_ok hu).spos_eq⟩
    constructor
    case frame => exact h.frame.trans (hframe.of_eq_ok hu).encode
    case dir => exact happ.dir_eq.trans h.dir
    case bits => rw [hbits, h.bits, List.append_assoc]
    case cnt => rw [happ.cnt_eq, hcnt, List.length_append]; omega
    case len => rw [hl, hlen, hcnt, List.length_append]; omega
    case ok => exact hok.of_eq_ok hu
    case room => rw [← h.room_add m, hroom]
  · obtain ⟨-, hcnt', hpre, hbits, hfull, -⟩ := hlost
    refine .inr ⟨hroom, u, hu, ?_, hcnt', (hframe.of_eq_raise hu).spos_eq⟩
    constructor
    case frame => exact h.frame.trans (hframe.of_eq_raise hu).encode
    case data => exact hdata.trans hpre
    case bits => rwa [h.bits, List.append_assoc] at hbits
    case full => exact hfull

theorem Wrote.withSpos (h : Wrote w l t) (n : Nat) : Wrote w l (t.withSpos n) :=
  ⟨h.frame.trans (withSpos_frame t n), h.dir, h.bits, h.cnt, h.len, h.ok, h.room⟩

theorem Lost.append (h : Lost w l t) (m : List Bool) : Lost w (l ++ m) t :=
  ⟨h.frame, h.data, h.bits.trans (by rw [← List.append_assoc]; exact List.prefix_append _ _), h.full⟩

/-- The sink is filled to its capacity with the first bytes of those that were to come (R192). -/
theorem Lost.snk_eq (h : Lost w l t) (hsnk : w.snk.present = true) (hcap : w.snk.cap = some c) :
    t.snk = { w.snk with data := w.snk.data ++ (pack l).take (c - w.snk.data.length) } := by
  have hframe : t.snk = { w.snk with data := t.snk.data } := by rw [h.frame]
  obtain ⟨e, he⟩ := h.data
  have hfull := pushFails_iff.mp h.full
  rw [hframe] at hfull
  have hlen : c = t.snk.data.length := by simpa [hsnk, hcap] using hfull
  obtain ⟨n, -, hpack, -⟩ := pack_spec l
  have hpre : e <+: pack l := by
    have hbits := h.bits
    rw [← he, streamBits_append, List.prefix_append_right_inj] at hbits
    exact prefix_of_streamBits_prefix (hpack ▸ hbits.trans (List.prefix_append _ _))
  rw [hframe, ← he, hlen, ← he, List.length_append, Nat.add_sub_cancel_left, ← List.prefix_iff_eq_take.mp hpre]

/-! ## Closing -/

/-- The buffered bits and the zeros below them are the buffer's byte (R25, R27). -/
theorem byteBits_eq_of_channelOk (hok : ChannelOk t) (hd : t.dir = .write) :
    byteBits t.buf = (byteBits t.buf).take t.cnt.val ++ List.replicate (8 - t.cnt.val) false := by
  obtain ⟨hc, hlow⟩ := hok.of_write hd
  have hzeros : (byteBits t.buf).drop t.cnt.val = List.replicate (8 - t.cnt.val) false := by
    refine List.ext_getElem (by simp [length_byteBits]) fun i hi _ => ?_
    rw [List.length_drop, length_byteBits] at hi
    have hbit := getElem?_byteBits t.buf (k := t.cnt.val + i) (by omega)
    rw [hlow _ (by omega), List.getElem?_eq_some_iff] at hbit
    obtain ⟨_, hbit⟩ := hbit
    rw [List.getElem_drop, hbit, List.getElem_replicate]
  rw [← hzeros, List.take_append_drop]

/-- The state a write channel is closed in, the last byte pushed. -/
def State.closedWith (t : State) (d : List Byte) : State := closeChan (t.withSnkData d)

theorem Wrote.close (h : Wrote w l t) :
    (hasRoom (pack l).length w = true ∧ closeBody t = .ok () (t.closedWith (w.snk.data ++ pack l))) ∨
    (hasRoom (pack l).length w = false ∧ closeBody t = .raise .ioError (closeChan t) ∧ Lost w l t) := by
  obtain ⟨-, -, -, hlen⟩ := pack_spec l
  have hcnt := h.cnt
  have hsnk : t.snk = { w.snk with data := t.snk.data } := by rw [h.frame]
  rcases Nat.eq_zero_or_pos t.cnt.val with hc | hc
  · have hdata : t.snk.data = w.snk.data ++ pack l := h.data_eq (n := 0) (by decide) (by simp [State.written, hc])
    refine .inl ⟨?_, ?_⟩
    · rw [hlen, show (l.length + 7) / 8 = l.length / 8 by omega, h.room]
    · rw [closeBody_of_nothing_buffered (.inr hc), ← hdata]
      rfl
  · have hroom : hasRoom (pack l).length w = !pushFails t := by
      rw [← hasRoom_one, hasRoom_add hsnk h.len h.room, hlen]
      congr 1
      omega
    rw [hroom]
    cases hp : pushFails t with
    | true =>
      exact .inr ⟨rfl, closeBody_of_pushFails h.dir hc hp, h.frame, h.data_prefix, h.bits ▸ List.prefix_append _ _, hp⟩
    | false =>
      have hdata : t.snk.data ++ [t.buf] = w.snk.data ++ pack l := by
        refine h.data_eq (n := 8 - t.cnt.val) (by omega) ?_
        rw [streamBits_append, State.written, List.append_assoc, ← byteBits_eq_of_channelOk h.ok h.dir]
        simp [streamBits]
      exact .inl ⟨rfl, by rw [closeBody_of_push h.dir hc hp, hdata, State.closedWith]⟩

end

end Sys2Proof.Machine
end

section
/-! PROOF. Commands issued one after another (00_scope.md R67): each is its body, whatever the last command ended with. -/

namespace Sys2Proof.Machine

section
variable {s t u e : State} {i : Instr} {l m : List Instr} {bits : List Bool} {body : State → Res Unit}

theorem issue_cons (h : exec i s = .next t) : issue (i :: l) s = issue l t := by rw [issue, h]

theorem issue_one (h : exec i s = .next t) : issue [i] s = .next t := by rw [issue_cons h, issue]

theorem issue_append (h : issue l s = .next t) : issue (l ++ m) s = issue m t := by
  induction l generalizing s with
  | nil => cases h; rfl
  | cons i l ih =>
    cases hi : exec i s with
    | next u => rw [issue_cons hi] at h; rw [List.cons_append, issue_cons hi]; exact ih h
    | fault f => rw [issue, hi] at h; cases h
    | refused r => rw [issue, hi] at h; cases h

/-! ## The end of a command set aside -/

theorem BodyFrame.endOk_eq (h : BodyFrame s t) (r : Sym) : endOk r t = t.aside (endOk r s) := by
  rw [endOk, endOk, State.withEnd, State.withEnd, State.aside, h.faults, h.resp, h.hdr, h.inbox]

/-- A command's body completes whatever the last command ended with, and its own end is the same (R222). -/
theorem exec_aside (hi : exec i (s.aside e) = finishUnit (body (s.aside e))) (hb : Blind body) (h : body s = .ok () t) :
    exec i (s.aside e) = .next (t.aside (endOk 0 e)) := by
  rw [hi]
  exact finishUnit_of_eq_ok (hb.of_ok h e)

/-! ## Writing does not look at it -/

theorem snkPush_blind (b : Byte) : Blind (snkPush b) :=
  .ite (fun _ _ => rfl) (.raise _) (.ite (fun _ _ => rfl) (.raise _) fun _ _ => rfl)

theorem writeBit_blind (b : Bool) : Blind (writeBit b) := by
  refine .ite (fun _ _ => rfl) (.raise _) fun s u => ?_
  by_cases h : s.cnt.val < 8
  · by_cases h7 : s.cnt.val + 1 = 8
    · simp only [State.aside_cnt, State.aside_buf, h, h7, ↓reduceDIte, ↓reduceIte]
      exact snkPush_blind _ (s.withBuf 0#8 ⟨0, by decide⟩) u
    · simp only [State.aside_cnt, State.aside_buf, h, h7, ↓reduceDIte, ↓reduceIte]
      rfl
  · simp only [State.aside_cnt, h, ↓reduceDIte]
    rfl

theorem writeBits_blind (l : List Bool) : Blind (writeBits l) := by
  induction l with
  | nil => exact .pure ()
  | cons b l ih => exact (writeBit_blind b).bind fun _ => ih

theorem Blind.finally {f : State → Res Unit} {g : State → State} (hf : Blind f)
    (hg : ∀ s u : State, g (s.aside u) = (g s).aside u) : Blind fun s => (f s).finally g := by
  intro s u
  simp only [hf s u]
  cases f s with
  | ok a t => exact congrArg (Res.ok a) (hg t u)
  | raise h t => exact congrArg (Res.raise h) (hg t u)
  | stuck h => rfl

theorem flush_blind : Blind flush :=
  .ite (fun _ _ => rfl) (fun s u => snkPush_blind s.buf (s.withBuf 0#8 ⟨0, by decide⟩) u) fun _ _ => rfl

theorem closeBody_blind : Blind closeBody :=
  .ite (fun _ _ => rfl) (flush_blind.finally fun _ _ => rfl) fun _ _ => rfl

/-- A command that writes bits to an open write channel, all of them. -/
theorem exec_writes (hi : exec i (s.aside e) = finishUnit (writeBits bits (s.aside e))) (h : writeBits bits s = .ok () t) :
    exec i (s.aside e) = .next (t.aside (endOk 0 e)) := exec_aside hi (writeBits_blind bits) h

/-- The bits written by a `WRBIT` for each. -/
theorem issue_wrbits (h : writeBits bits s = .ok () t) :
    ∃ e', issue (bits.map .wrbit) (s.aside e) = .next (t.aside e') ∧ e'.faults = e.faults := by
  induction bits generalizing s e with
  | nil => cases h; exact ⟨e, rfl, rfl⟩
  | cons b l ih =>
    cases hb : writeBit b s with
    | ok a u =>
      rw [writeBits, hb, Res.bind_ok] at h
      obtain ⟨e', he', hf⟩ := ih (e := endOk 0 e) h
      refine ⟨e', ?_, hf⟩
      rw [List.map_cons, issue_cons (exec_aside rfl (writeBit_blind b) hb)]
      exact he'
    | raise f u => rw [writeBits, hb, Res.bind_raise] at h; cases h
    | stuck f => rw [writeBits, hb] at h; cases h

end

/-- `OPENW` on a sink that is there (R117). -/
theorem exec_openw {s : State} (hd : s.dir = .closed) (hsnk : s.snk.present = true) :
    exec .openw s = .next (s.openedToWrite.aside (endOk 0 s)) :=
  finishUnit_of_eq_ok (openwBody_of_sink hd hsnk)

/-- `OPENR` on a source that is there (R116). -/
theorem exec_openr {s : State} (hd : s.dir = .closed) (hsrc : s.src.present = true) :
    exec .openr s = .next (s.opened.aside (endOk 0 s)) :=
  finishUnit_of_eq_ok (openrBody_of_source hd hsrc)

theorem hasRoom_of_no_cap {s : State} (hsnk : s.snk.present = true) (hcap : s.snk.cap = none) (n : Nat) :
    hasRoom n s = true := by simp [hasRoom, hsnk, hcap]

/-- Bits written to an unlimited sink and the channel closed. -/
theorem writes_and_closes {s : State} (hsnk : s.snk.present = true) (hcap : s.snk.cap = none) (l : List Bool) :
    ∃ t, writeBits l s.openedToWrite = .ok () t ∧ closeBody t = .ok () (t.closedWith (s.snk.data ++ pack l)) := by
  have hroom (n : Nat) : hasRoom n s.openedToWrite = true := hasRoom_of_no_cap hsnk hcap n
  rcases (wrote_nil s).write l with ⟨-, t, ht, hw, -⟩ | ⟨hno, -⟩
  · rcases hw.close with ⟨-, hclose⟩ | ⟨hno, -⟩
    · exact ⟨t, ht, hclose⟩
    · rw [hroom] at hno; cases hno
  · rw [hroom] at hno; cases hno

end Sys2Proof.Machine
end

section
/-! PROOF. What was written through the channel is read back (40_bitchannel.md R123; 44_treecodec.md R176). -/

namespace Sys2Proof.Machine

section
variable {s t : State} {l m : List Bool}

/-- An `RDBIT` for each of the bits that come next answers them (R118). -/
theorem issue_rdbits (hd : s.dir = .read) (hm : s.readable = l ++ m) :
    ∃ t, issue (List.replicate l.length .rdbit) s = .next t ∧ t.dir = .read ∧ t.readable = m ∧ t.src = s.src ∧
      t.faults = s.faults ∧ t.resp = s.resp ++ l.map fun b => respWord .ok (bitSym b) := by
  induction l generalizing s with
  | nil => exact ⟨s, rfl, hd, hm, rfl, rfl, by simp⟩
  | cons b l ih =>
    obtain ⟨t, hr, hrest, hreads⟩ := readBit_of_readable_cons hd hm
    obtain ⟨hexec, ⟨-, -, hfaults, hresp⟩, -⟩ := exec_rdbit_of_readBit hr
    obtain ⟨u, hu, hdir, hrest', hsrc, hfaults', hresp'⟩ :=
      ih (s := endOk (bitSym b) t) (hreads.frame.dir_eq.trans hd) hrest
    refine ⟨u, ?_, hdir, hrest', hsrc.trans hreads.frame.src_eq, hfaults'.trans hfaults, ?_⟩
    · rw [List.length_cons, List.replicate_succ, issue_cons hexec, hu]
    · rw [hresp', hresp, List.map_cons, List.append_assoc, List.singleton_append]

/-- The bits of a source opened at byte 0 (R52). -/
theorem opened_readable {d : List Byte} (hsrc : s.src = { present := true, data := d, errAt := none }) :
    s.opened.readable = streamBits d := by
  have hempty : (byteBits s.opened.buf).drop (8 - s.opened.cnt.val) = [] := rfl
  have hsrc' : s.opened.src = { present := true, data := d, errAt := none } := hsrc
  have hspos : s.opened.spos = 0 := rfl
  rw [State.readable, hempty, readLimit, hsrc', hspos]
  simp

/-- A source's bytes read from the opening on: an `RDBIT` for each of their first bits answers it (R116, R118). -/
theorem issue_reads {d : List Byte} (hd : s.dir = .closed) (hsrc : s.src = { present := true, data := d, errAt := none })
    (hm : streamBits d = l ++ m) :
    ∃ t, issue (.openr :: List.replicate l.length .rdbit) s = .next t ∧ t.dir = .read ∧ t.readable = m ∧ t.src = s.src ∧
      t.faults = s.faults ∧ t.resp = s.resp ++ respWord .ok 0 :: l.map fun b => respWord .ok (bitSym b) := by
  obtain ⟨t, ht, hdir, hrest, hsrc', hf, hresp⟩ := issue_rdbits (s := s.opened.aside (endOk 0 s)) rfl
    ((opened_readable hsrc).trans hm)
  refine ⟨t, ?_, hdir, hrest, hsrc', hf, ?_⟩
  · rw [issue_cons (exec_openr hd (by rw [hsrc])), ht]
  · rw [hresp]
    simp [endOk, State.withEnd, State.aside]

/-- A `WRBIT` for each bit packs them into an empty sink (R115, R120, R122). -/
theorem issue_packs (l : List Bool) (hd : s.dir = .closed) (hsnk : s.snk = { present := true, data := [], cap := none }) :
    ∃ t, issue (.openw :: (l.map .wrbit ++ [.close])) s = .next t ∧ t.faults = s.faults ∧ t.snk.data = pack l := by
  obtain ⟨w, hw, hclose⟩ := writes_and_closes (s := s) (by rw [hsnk]) (by rw [hsnk]) l
  obtain ⟨e, he, hfaults⟩ := issue_wrbits (e := endOk 0 s) hw
  refine ⟨(w.closedWith (s.snk.data ++ pack l)).aside (endOk 0 e), ?_, hfaults, ?_⟩
  · rw [issue_cons (exec_openw hd (by rw [hsnk])), issue_append he, issue_one (exec_aside rfl closeBody_blind hclose)]
  · change s.snk.data ++ pack l = pack l
    rw [hsnk]
    rfl

theorem readBit_at_end_of_source {d : List Byte} (hd : s.dir = .read) (hrest : s.readable = [])
    (hsrc : s.src = { present := true, data := d, errAt := none }) : readBit s = .raise .endOfStream s := by
  rcases readBit_ends' hd with ⟨b, v, -, hreads⟩ | ⟨-, hr, -⟩
  · rw [hreads.readable] at hrest; cases hrest
  · rw [hr, outOfBits, pullFails, hsrc]
    rfl

end

/-- Settles O25: the channel packs the bits written, and reads the packed bytes bit by bit. -/
theorem bitsWrittenAreReadBack : Obligations.BitsWrittenAreReadBack := by
  intro s l hd hsnk
  obtain ⟨t, ht, hfaults, hdata⟩ := issue_packs l hd hsnk
  obtain ⟨n, -, hbits, hlen⟩ := pack_spec l
  refine ⟨t, ht, hfaults, by rw [hdata, hlen], fun u hud husrc => ?_⟩
  rw [hdata] at husrc ⊢
  refine ⟨?_, ?_⟩
  · obtain ⟨v, hv, -, -, -, hf, hresp⟩ := issue_reads hud husrc hbits
    exact ⟨v, hv, hf, hresp⟩
  · obtain ⟨v, hv, hdir, hrest, hsrc, -, hresp⟩ := issue_reads hud husrc (hbits.trans (List.append_nil _).symm)
    have htotal : 8 * (pack l).length = (l ++ List.replicate n false).length := by rw [← hbits, length_streamBits]
    have hpad : 8 * (pack l).length - l.length = n := by rw [htotal]; simp
    have hend := readBit_at_end_of_source hdir hrest (hsrc.trans husrc)
    refine ⟨endFail .endOfStream v, ?_, ?_⟩
    · rw [htotal, List.replicate_succ', ← List.cons_append, issue_append hv, issue_one (exec_rdbit_of_raise hend)]
    · rw [hpad]
      change v.resp ++ _ = _
      rw [hresp, List.append_assoc, List.cons_append]
      rfl

/-- Settles O39: `SERTREE` writes the header, and `DESTREE` reads it off the packed bytes. -/
theorem treeSurvivesTheHeader : Obligations.TreeSurvivesTheHeader := by
  intro s tree hv hholds hd hsnk
  obtain ⟨hs, htree, -, -, hwf, -⟩ := hholds
  obtain ⟨w, hw, hclose⟩ := writes_and_closes (s := s) (by rw [hsnk]) (by rw [hsnk]) tree.header
  have hser : exec .sertree (s.openedToWrite.aside (endOk 0 s)) = .next (w.aside (endOk 0 (endOk 0 s))) :=
    exec_writes (congrArg finishUnit (sertreeBody_of_tree? rfl hv htree)) hw
  have hwritten : issue [.openw, .sertree, .close] s =
      .next ((w.closedWith (s.snk.data ++ pack tree.header)).aside (endOk 0 (endOk 0 (endOk 0 s)))) := by
    rw [issue_cons (exec_openw hd (by rw [hsnk])), issue_cons hser, issue_one (exec_aside rfl closeBody_blind hclose)]
  have hdata : ((w.closedWith (s.snk.data ++ pack tree.header)).aside (endOk 0 (endOk 0 (endOk 0 s)))).snk.data =
      pack tree.header := by
    change s.snk.data ++ pack tree.header = pack tree.header
    rw [hsnk]
    rfl
  refine ⟨_, hwritten, rfl, fun u hud husrc => ?_⟩
  rw [hdata] at husrc
  obtain ⟨n, -, hbits, -⟩ := pack_spec tree.header
  obtain ⟨hs', v, hdes, hdone⟩ := destreeBody_of_header (s := u.opened.aside (endOk 0 u)) rfl hwf
    ((opened_readable husrc).trans hbits)
  have hframe := (destreeBody_bodyFrame _).of_eq_ok hdes
  have hexec : exec .destree (u.opened.aside (endOk 0 u)) = .next (endOk 0 v) := finishUnit_of_eq_ok hdes
  refine ⟨endOk 0 v, ?_, ?_, hdone.treeV, hdone.holdsTree hwf⟩
  · rw [issue_cons (exec_openr hud (by rw [husrc])), issue_one hexec]
  · exact hframe.faults

end Sys2Proof.Machine
end

section
/-! PROOF. What `COMPRESS` prepares before it writes (45_encoder.md R189): counts, tree and codes of its source. -/

namespace Sys2Proof.Machine

/-! ## Building does not look at the end of the last command -/

theorem allocLeaves_blind (l : List (Sym × Nat)) (q : List QEntry) : Blind (allocLeaves l q) := by
  induction l generalizing q with
  | nil => exact .pure q
  | cons p l ih => exact (alloc_blind _).bind fun h => ih _

theorem mergeLoop_blind (n : Nat) (q : List QEntry) : Blind (mergeLoop n q) := by
  induction n generalizing q with
  | zero => exact fun _ _ => rfl
  | succ n ih =>
    cases ha : popMin q with
    | none => exact fun s u => by simp only [mergeLoop, ha]; rfl
    | some p =>
      obtain ⟨a, r⟩ := p
      cases hb : popMin r with
      | none => exact fun s u => by simp only [mergeLoop, ha, hb]; rfl
      | some p =>
        obtain ⟨b, l⟩ := p
        intro s u
        simp only [mergeLoop, ha, hb]
        exact (alloc_blind _).bind (fun h => ih _) s u

theorem buildBody_of_unwritten {s : State} (hv : s.ftV = true) (hft : allWritten s.ft.toList = none) :
    buildBody s = .stuck .unwrittenEntry := by
  simp [buildBody, hv, hft]

theorem rooted_blind (r : NodeIx) : Blind fun s => .ok () (s.rooted r) := fun _ _ => rfl

theorem grow_blind (l : List (Sym × Nat)) (n : Nat) :
    Blind fun s => (allocLeaves l [] s).bind fun q t => (mergeLoop n q t).bind fun r u => .ok () (u.rooted r) :=
  (allocLeaves_blind l []).bind fun q => (mergeLoop_blind n q).bind rooted_blind

theorem buildBody_blind : Blind buildBody := fun s u => by
  cases hv : s.ftV with
  | false => rw [buildBody_of_no_counts hv, buildBody_of_no_counts (s := s.aside u) hv]; rfl
  | true =>
    cases hft : allWritten s.ft.toList with
    | none => rw [buildBody_of_unwritten hv hft, buildBody_of_unwritten (s := s.aside u) hv hft]; rfl
    | some counts =>
      rw [buildBody_of_counts hv hft, buildBody_of_counts (s := s.aside u) hv hft]
      exact grow_blind (buildLeaves counts) maxFrames (clearTree s) u

/-! ## The counts of the source -/

theorem sum_counts (l : List Byte) : (allBytes.map fun b => l.count b).sum = l.length := by
  have hnodup : allBytes.Nodup := allBytes_pairwise.imp fun h => by rintro rfl; exact lt_irrefl _ h
  rw [← List.sum_toFinset _ hnodup, ← Multiset.coe_card, ← Multiset.sum_count_eq_card (s := allBytes.toFinset)]
  · simp only [Multiset.coe_count]
  · simp [mem_allBytes]

/-- The state `FREQ` completes in, but for its end (R130, R131). -/
def State.tallied (s : State) : State := (s.flagsCleared.counted s.src.data.length).withFlags true false false

theorem tallied_holdsCounts (s : State) : HoldsCounts s.tallied fun b => s.src.data.count b :=
  holdsCounts_iff.mpr fun b => by
    have hft : s.tallied.ft = countTable s.src.data := ft_counted_length s.flagsCleared
    rw [hft, getElem?_countTable_toNat]

/-! ## The state the channel is opened in -/

/-- `w` is where `COMPRESS` stands when it has opened the channel, `g` where it has built the tree. -/
structure Prepared (s g w : State) (tree : Tree) : Prop where
  build : buildBody s.tallied = .ok () g
  built : TreeBuilt (fun b => s.src.data.count b) g tree
  eq : w = (g.withCodes tree).openedToWrite
  codes : HoldsCodes w tree
  tree? : ∃ hs, w.tree? = some (tree, hs)

section
variable {s g w : State} {tree : Tree}

theorem withCodes_holdsCodes (hwf : tree.Wf) (s : State) : HoldsCodes (s.withCodes tree) tree :=
  fun x => Tree.recordPaths_root hwf.1 x

theorem exists_prepared (hlen : s.src.data.length < 2 ^ s.cfg.cw) : ∃ g w tree, Prepared s g w tree := by
  obtain ⟨g, tree, hg, hb⟩ := buildBody_of_holdsCounts (s := s.tallied) rfl (tallied_holdsCounts s)
    ((sum_counts _).trans_lt hlen)
  obtain ⟨hs, htree, -, -, hwf, -⟩ := hb.holds
  exact ⟨g, _, tree, hg, hb, rfl, withCodes_holdsCodes hwf g, hs, htree⟩

theorem Prepared.frame (h : Prepared s g w tree) : BuildFrame s.tallied g := Res.All.of_eq_ok (buildBody_frame _) h.build

theorem Prepared.wf (h : Prepared s g w tree) : tree.Wf := by
  obtain ⟨hs, htree, -, -, hwf, -⟩ := h.built.holds
  exact hwf

/-- Every byte of the source has a leaf, and so a code that is not empty (R157, R189). -/
theorem Prepared.code (h : Prepared s g w tree) {b : Byte} (hb : b ∈ s.src.data) :
    ∃ c, tree.code? (byteSym b) = some c ∧ c ≠ [] := by
  have hmem : byteSym b ∈ tree.leaves := h.built.mem_leaves.mpr (.inr (.inl ⟨b, rfl, List.count_pos_iff.mpr hb⟩))
  cases hc : tree.code? (byteSym b) with
  | none => exact absurd hmem ((tree.code?_eq_none_iff _).mp hc)
  | some c => exact ⟨c, rfl, h.wf.code_ne_nil hc⟩

/-- Sink, source and position are as the first scan left them. -/
theorem Prepared.streams (h : Prepared s g w tree) : w.snk = s.snk ∧ w.src = s.src ∧ w.spos = s.src.data.length ∧
    w.cfg = s.cfg ∧ w.ft = s.tallied.ft := by
  obtain ⟨-, hft, -, -, ⟨hcfg, hsrc, -⟩, hsnk, hspos⟩ := h.frame.keeps
  rw [h.eq]
  exact ⟨hsnk, hsrc, hspos, hcfg, hft⟩

/-- The steps of `COMPRESS` up to the opening of the channel (R189). -/
theorem compressSteps_of_prepared (h : Prepared s g w tree) (hd : s.dir = .closed) (hsrc : s.src.present = true)
    (he : ∀ e, s.src.errAt = some e → s.src.data.length < e) (hsnk : s.snk.present = true) :
    compressSteps s = (writeBits tree.header w).bind fun _ s => (srcRewind s).bind fun _ s =>
      (encodeLoop (s.src.data.length + 1) s).bind fun _ s => (puttermBody s).bind fun _ s => closeBody s := by
  obtain ⟨hs, htree⟩ := h.tree?
  obtain ⟨hsnk', -⟩ := h.streams
  have hgtree : g.tree? = some (tree, hs) := by rw [← htree, h.eq]; rfl
  have hgd : g.dir = .closed := by
    obtain ⟨-, -, -, ⟨hdir, -⟩, -⟩ := h.frame.keeps
    exact hdir.trans hd
  have hopen : openwBody (g.withCodes tree) = .ok () w := by
    rw [h.eq]
    refine openwBody_of_sink hgd ?_
    rw [← hsnk, ← hsnk', h.eq]
    rfl
  have hsertree : sertreeBody w = writeBits tree.header w :=
    sertreeBody_of_tree? (by rw [h.eq]; rfl) (by rw [h.eq]; exact h.built.treeV) htree
  rw [compressSteps, freqBody_of_source (by simp [hd]) hsrc he, Res.bind_ok]
  change (buildBody s.tallied).bind _ = _
  rw [h.build, Res.bind_ok, codesBody_of_tree? h.built.treeV hgtree, Res.bind_ok, hopen, Res.bind_ok, hsertree]

end
end Sys2Proof.Machine
end

section
/-! PROOF. The codes `COMPRESS` writes, byte by byte (45_encoder.md R189, R191, R192), and where a push that fails leaves
it. -/

namespace Sys2Proof.Machine

section
variable {s g w t : State} {tree : Tree} {l : List Bool} {rest pre : List Byte} {b : Byte} {c m n : Nat}

/-! ## Room -/

theorem hasRoom_mono (h : hasRoom n s = true) (hmn : m ≤ n) : hasRoom m s = true := by
  unfold hasRoom at h ⊢
  cases hp : s.snk.present with
  | false => simp [hp] at h ⊢; omega
  | true =>
    cases hc : s.snk.cap with
    | none => simp
    | some c =>
      rw [hp, hc] at h
      simp only [Bool.true_and, Bool.or_eq_true, decide_eq_true_eq] at h ⊢
      omega

/-- The bit that fills the byte lost comes after those there was room for, and among those there was not (R192). -/
theorem lost_bit_bounds (hsnk : s.snk.present = true) (hcap : s.snk.cap = some c) (hm : hasRoom (m / 8) s = true)
    (hn : hasRoom (n / 8) s = false) :
    m < 8 * (c - s.snk.data.length + 1) ∧ 8 * (c - s.snk.data.length + 1) ≤ n := by
  obtain ⟨hle, hlt, -⟩ := room_to_capacity hsnk hcap hn
  simp only [hasRoom, hsnk, hcap, Bool.true_and, Bool.or_eq_true, decide_eq_true_eq] at hm
  omega

/-! ## The loop -/

theorem Wrote.src_eq (h : Wrote w l t) : t.src = w.src := by rw [h.frame]

theorem putsymBody_of_codes (hd : t.dir = .write) (hv : t.ctV = true) (hcodes : HoldsCodes t tree) {c : List Bool}
    (hc : tree.code? (byteSym b) = some c) : putsymBody b t = writeBits c t := by
  have hct : t.ct[b.toNat]? = some (some (tree.entry (byteSym b))) :=
    Vector.getElem?_eq_some_iff.mpr ⟨(byteSym b).isLt, hcodes (byteSym b)⟩
  rw [putsymBody_of_entry hd hv hct, Tree.entry, hc]
  rfl

theorem puttermBody_of_codes (hd : t.dir = .write) (hv : t.ctV = true) (hcodes : HoldsCodes t tree) :
    puttermBody t = writeBits (tree.entry TERM).code t :=
  puttermBody_of_entry hd hv (Vector.getElem?_eq_some_iff.mpr ⟨by decide, hcodes TERM⟩)

theorem Wrote.ctV_eq (h : Wrote w l t) : t.ctV = w.ctV := by rw [h.frame]

theorem Wrote.holdsCodes (h : Wrote w l t) (hcodes : HoldsCodes w tree) : HoldsCodes t tree := by rw [h.frame]; exact hcodes

theorem encodeLoop_of_pull {u : State} (h : srcPull t = .ok (some b) u) (n : Nat) :
    encodeLoop (n + 1) t = (putsymBody b u).bind fun _ s => encodeLoop n s := by
  rw [encodeLoop, h]
  rfl

theorem encodeLoop_at_end (hp : pullFails t = false) (hs : t.src.data.length ≤ t.spos) (n : Nat) :
    encodeLoop (n + 1) t = .ok () t := by
  rcases srcPull_of_not_pullFails hp with ⟨-, hr⟩ | ⟨b, hb, -⟩
  · rw [encodeLoop, hr]
    rfl
  · rw [List.getElem?_eq_none hs] at hb
    cases hb

/-- No pull up to the end of the source fails (R52). -/
def Readable (w : State) : Prop := w.src.present = true ∧ ∀ e, w.src.errAt = some e → w.src.data.length < e

theorem Readable.pull (h : Readable w) (hsrc : t.src = w.src) (hle : t.spos ≤ w.src.data.length) : pullFails t = false := by
  obtain ⟨hp, he⟩ := h
  rw [← hsrc] at hp he hle
  exact pullFails_eq_false hp fun herr => absurd (he _ herr) (not_lt.mpr hle)

/-- The bytes of the source from `SPOS` on are encoded one after another, or a push fails among the bits of one (R189). -/
theorem Wrote.encodes (h : Wrote w l t) (hv : w.ctV = true) (hcodes : HoldsCodes w tree) (hread : Readable w)
    (hpos : t.spos ≤ w.src.data.length) (hrest : w.src.data.drop t.spos = rest)
    (hcode : ∀ b ∈ rest, ∃ c, tree.code? (byteSym b) = some c) :
    (hasRoom ((l ++ tree.codes rest).length / 8) w = true ∧ ∃ u, encodeLoop (rest.length + 1) t = .ok () u ∧
      Wrote w (l ++ tree.codes rest) u ∧ u.spos = w.src.data.length) ∨
    ∃ pre b u, pre ++ [b] <+: rest ∧ hasRoom ((l ++ tree.codes pre).length / 8) w = true ∧
      hasRoom ((l ++ tree.codes (pre ++ [b])).length / 8) w = false ∧ encodeLoop (rest.length + 1) t = .raise .ioError u ∧
      Lost w (l ++ tree.codes (pre ++ [b])) u ∧ u.cnt.val = 0 ∧ u.spos = t.spos + pre.length + 1 := by
  have hpull := hread.pull h.src_eq hpos
  induction rest generalizing l t with
  | nil =>
    have hend : w.src.data.length ≤ t.spos := List.drop_eq_nil_iff.mp hrest
    refine .inl ⟨by simpa [Tree.codes] using h.room, t, encodeLoop_at_end hpull (h.src_eq ▸ hend) _, ?_, ?_⟩
    · simpa [Tree.codes] using h
    · omega
  | cons b rest ih =>
    obtain ⟨⟨c, hc⟩, hcode⟩ := List.forall_mem_cons.mp hcode
    have hbyte : w.src.data[t.spos]? = some b := by
      have := congrArg List.head? hrest
      simpa using this
    have hlt : t.spos < w.src.data.length := (List.getElem?_eq_some_iff.mp hbyte).1
    have hr : srcPull t = .ok (some b) (t.withSpos (t.spos + 1)) := by
      rcases srcPull_of_not_pullFails hpull with ⟨hle, -⟩ | ⟨b', hb', hr⟩
      · rw [h.src_eq] at hle; omega
      · rw [h.src_eq, hbyte] at hb'
        rwa [Option.some.inj hb']
    have h' := h.withSpos (t.spos + 1)
    have hloop (n : Nat) : encodeLoop (n + 1) t =
        (writeBits c (t.withSpos (t.spos + 1))).bind fun _ s => encodeLoop n s := by
      rw [encodeLoop_of_pull hr, putsymBody_of_codes h'.dir (h'.ctV_eq.trans hv) (h'.holdsCodes hcodes) hc]
    rw [List.length_cons, hloop]
    rcases h'.write c with ⟨-, u, hu, hwrote, hspos⟩ | ⟨hroom, u, hu, hlost, hcnt, hspos⟩
    · have hspos' : u.spos = t.spos + 1 := hspos
      have hdrop : w.src.data.drop u.spos = rest := by
        rw [hspos', ← List.drop_drop, hrest, List.drop_one, List.tail_cons]
      rw [hu, Res.bind_ok, Tree.codes_cons hc, ← List.append_assoc]
      refine (ih hwrote (by omega) hdrop hcode (hread.pull hwrote.src_eq (by omega))).imp id ?_
      rintro ⟨pre, b', v, hpre, hroom, hfull, hv, hlost, hcnt, hvspos⟩
      rw [List.append_assoc, ← Tree.codes_cons hc] at hroom hfull hlost
      exact ⟨b :: pre, b', v, List.prefix_cons_inj b |>.mpr hpre, hroom, hfull, hv, hlost, hcnt, by
        rw [hvspos, hspos', List.length_cons]; omega⟩
    · refine .inr ⟨[], b, u, by simp, by simpa [Tree.codes] using h.room, ?_, by rw [hu, Res.bind_raise], ?_, hcnt, ?_⟩
      · simpa [Tree.codes, Tree.entry_of_code hc] using hroom
      · simpa [Tree.codes, Tree.entry_of_code hc] using hlost
      · simpa using hspos

/-! ## The steps from the opening of the channel on -/

/-- The steps of `COMPRESS` behind the opening of the channel (R189). -/
def encodeSteps (tree : Tree) (w : State) : Res Unit :=
  (writeBits tree.header w).bind fun _ s => (srcRewind s).bind fun _ s =>
    (encodeLoop (s.src.data.length + 1) s).bind fun _ s => (puttermBody s).bind fun _ s => closeBody s

/-- Where `SPOS` stands when the bit that fills the lost byte is the one of number `lost` (R192). -/
def LostAt (tree : Tree) (data : List Byte) (lost spos : Nat) : Prop :=
  (lost ≤ tree.header.length ∨ tree.header.length + (tree.codes data).length < lost → spos = data.length) ∧
  (tree.header.length < lost → lost ≤ tree.header.length + (tree.codes data).length →
    spos ≤ data.length ∧ lost ≤ tree.header.length + (tree.codes (data.take spos)).length ∧
    tree.header.length + (tree.codes (data.take (spos - 1))).length < lost)

/-- How the steps end when a push fails: nothing is left to flush, the sink is full, and `SPOS` is where the lost byte was
filled (R191, R192). -/
structure EncodeFails (w : State) (tree : Tree) (u : State) : Prop where
  release : release u = closeChan u
  snk : ∀ c, w.snk.cap = some c → u.snk = { w.snk with
    data := w.snk.data ++ (pack (tree.header ++ tree.payload w.src.data)).take (c - w.snk.data.length) }
  spos : ∀ c, w.snk.cap = some c → LostAt tree w.src.data (8 * (c - w.snk.data.length + 1)) u.spos

section
variable {data : List Byte} {lost : Nat}

theorem lostAt_header (h : lost ≤ tree.header.length) : LostAt tree data lost data.length :=
  ⟨fun _ => rfl, fun hlt => absurd hlt (not_lt.mpr h)⟩

theorem lostAt_end (h : tree.header.length + (tree.codes data).length < lost) : LostAt tree data lost data.length :=
  ⟨fun _ => rfl, fun _ hle => absurd h (not_lt.mpr hle)⟩

theorem lostAt_code (hpre : pre ++ [b] <+: data) (hlt : tree.header.length + (tree.codes pre).length < lost)
    (hle : lost ≤ tree.header.length + (tree.codes (pre ++ [b])).length) : LostAt tree data lost (pre.length + 1) := by
  obtain ⟨r, rfl⟩ := hpre
  have htake : (pre ++ [b] ++ r).take (pre.length + 1) = pre ++ [b] := List.take_left' (by simp)
  have htake' : (pre ++ [b] ++ r).take (pre.length + 1 - 1) = pre := by simp
  refine ⟨fun h => ?_, fun _ _ => ⟨by simp, by rwa [htake], by rwa [htake']⟩⟩
  have hmono : (tree.codes (pre ++ [b])).length ≤ (tree.codes (pre ++ [b] ++ r)).length := by
    rw [Tree.codes_append _ _ r, List.length_append]; omega
  omega

end

theorem release_of_empty (hc : t.cnt.val = 0) : release t = closeChan t := by
  unfold release
  split
  · rw [flush, if_neg (by omega)]
  · rfl

theorem Lost.encodeFails {u : State} (h : Lost w l u) (hsnk : w.snk.present = true) {m : List Bool}
    (hlm : tree.header ++ tree.payload w.src.data = l ++ m) (hrel : release u = closeChan u)
    (hspos : ∀ c, w.snk.cap = some c → LostAt tree w.src.data (8 * (c - w.snk.data.length + 1)) u.spos) :
    EncodeFails w tree u :=
  ⟨hrel, fun _ hcap => hlm ▸ (h.append m).snk_eq hsnk hcap, hspos⟩

theorem length_pack (l : List Bool) : (pack l).length = (l.length + 7) / 8 := by
  obtain ⟨n, -, -, h⟩ := pack_spec l
  exact h

/-- Bits there is no room for are part of bytes there is no room for (R63). -/
theorem no_room_for_pack {l total : List Bool} (hl : l <+: total) (h : hasRoom (l.length / 8) w = false) :
    hasRoom (pack total).length w = false := by
  by_contra hroom
  have hle := hl.length_le
  rw [hasRoom_mono (by simpa using hroom) (by rw [length_pack]; omega)] at h
  cases h

theorem encodeSteps_of_header (hwrote : Wrote w tree.header t) (ht : writeBits tree.header w = .ok () t)
    (hsrc : w.src.present = true) :
    encodeSteps tree w = (encodeLoop (w.src.data.length + 1) (t.withSpos 0)).bind fun _ s =>
      (puttermBody s).bind fun _ s => closeBody s := by
  have hrewind : srcRewind t = .ok () (t.withSpos 0) := by
    rw [srcRewind, hwrote.src_eq, hsrc]
    rfl
  have hsrc' : (t.withSpos 0).src = w.src := hwrote.src_eq
  rw [encodeSteps, ht, Res.bind_ok, hrewind, Res.bind_ok, hsrc']

/-- The terminator's code and the padding are the last bits (R189). -/
theorem Wrote.finishes (h : Wrote w (tree.header ++ tree.codes w.src.data) t) (hv : w.ctV = true)
    (hcodes : HoldsCodes w tree) (hspos : t.spos = w.src.data.length) (hsnk : w.snk.present = true) :
    (hasRoom (pack (tree.header ++ tree.payload w.src.data)).length w = true ∧
      ∃ u, ((puttermBody t).bind fun _ s => closeBody s) =
      .ok () (u.closedWith (w.snk.data ++ pack (tree.header ++ tree.payload w.src.data))) ∧ EncodeFrame w u ∧
      u.spos = w.src.data.length) ∨
    (hasRoom (pack (tree.header ++ tree.payload w.src.data)).length w = false ∧
      ∃ u, ((puttermBody t).bind fun _ s => closeBody s) = .raise .ioError u ∧ EncodeFails w tree u) := by
  have htotal : tree.header ++ tree.codes w.src.data ++ (tree.entry TERM).code = tree.header ++ tree.payload w.src.data := by
    rw [Tree.payload, List.append_assoc]
  have hlen : (tree.header ++ tree.codes w.src.data).length = tree.header.length + (tree.codes w.src.data).length :=
    List.length_append
  rw [puttermBody_of_codes h.dir (h.ctV_eq.trans hv) (h.holdsCodes hcodes)]
  rcases h.write (tree.entry TERM).code with ⟨-, u, hu, hwrote, huspos⟩ | ⟨hfull, u, hu, hlost, hcnt, huspos⟩
  · rw [htotal] at hwrote
    rw [hu, Res.bind_ok]
    rcases hwrote.close with ⟨hroom, hclose⟩ | ⟨hfull, hclose, hlost⟩
    · exact .inl ⟨hroom, u, hclose, hwrote.frame, huspos.trans hspos⟩
    · refine .inr ⟨hfull, closeChan u, hclose, rfl, fun c hcap => hlost.snk_eq hsnk hcap, fun c hcap => ?_⟩
      obtain ⟨hlt, -⟩ := lost_bit_bounds hsnk hcap h.room (n := 8 * (pack (tree.header ++ tree.payload w.src.data)).length)
        (by rwa [Nat.mul_div_cancel_left _ (by decide)])
      exact (huspos.trans hspos).symm ▸ lostAt_end (hlen ▸ hlt)
  · rw [htotal] at hlost hfull
    refine .inr ⟨no_room_for_pack (List.prefix_refl _) hfull, u, by rw [hu, Res.bind_raise],
      hlost.encodeFails hsnk (List.append_nil _).symm (release_of_empty hcnt) fun c hcap => ?_⟩
    obtain ⟨hlt, -⟩ := lost_bit_bounds hsnk hcap h.room hfull
    exact (huspos.trans hspos).symm ▸ lostAt_end (hlen ▸ hlt)

/-- The steps write header, payload and padding, or a push fails among their bits (R189, R192). -/
theorem encodeSteps_ends (hw : Wrote w [] w) (hv : w.ctV = true) (hcodes : HoldsCodes w tree) (hread : Readable w)
    (hspos : w.spos = w.src.data.length) (hsnk : w.snk.present = true)
    (hcode : ∀ b ∈ w.src.data, ∃ c, tree.code? (byteSym b) = some c) :
    (hasRoom (pack (tree.header ++ tree.payload w.src.data)).length w = true ∧ ∃ t, encodeSteps tree w =
      .ok () (t.closedWith (w.snk.data ++ pack (tree.header ++ tree.payload w.src.data))) ∧ EncodeFrame w t ∧
      t.spos = w.src.data.length) ∨
    (hasRoom (pack (tree.header ++ tree.payload w.src.data)).length w = false ∧
      ∃ u, encodeSteps tree w = .raise .ioError u ∧ EncodeFails w tree u) := by
  rcases hw.write tree.header with ⟨-, t, ht, hwrote, -⟩ | ⟨hfull, u, hu, hlost, hcnt, huspos⟩
  · rw [encodeSteps_of_header hwrote ht hread.1]
    rcases (hwrote.withSpos 0).encodes (rest := w.src.data) hv hcodes hread (Nat.zero_le _) rfl hcode with
      ⟨-, u, hu, hwrote', huspos⟩ | ⟨pre, b, u, hpre, hroom, hfull, hu, hlost, hcnt, huspos⟩
    · rw [List.nil_append] at hwrote'
      rw [hu, Res.bind_ok]
      exact hwrote'.finishes hv hcodes huspos hsnk
    · rw [List.nil_append] at hroom hfull hlost
      obtain ⟨r, hr⟩ := id hpre
      have htotal : tree.header ++ tree.payload w.src.data =
          tree.header ++ tree.codes (pre ++ [b]) ++ (tree.codes r ++ (tree.entry TERM).code) := by
        rw [Tree.payload, ← hr, Tree.codes_append _ _ r]
        simp only [List.append_assoc]
      refine .inr ⟨no_room_for_pack ⟨_, htotal.symm⟩ hfull, u, by rw [hu, Res.bind_raise],
        hlost.encodeFails hsnk htotal (release_of_empty hcnt) fun c hcap => ?_⟩
      obtain ⟨hlt, hle⟩ := lost_bit_bounds hsnk hcap hroom hfull
      rw [List.length_append] at hlt hle
      have huspos' : u.spos = pre.length + 1 := by rw [huspos]; exact congrArg (· + 1) (Nat.zero_add _)
      exact huspos'.symm ▸ lostAt_code hpre hlt hle
  · rw [List.nil_append] at hlost hfull
    refine .inr ⟨no_room_for_pack (List.prefix_append _ _) hfull, u, by rw [encodeSteps, hu, Res.bind_raise],
      hlost.encodeFails hsnk rfl (release_of_empty hcnt) fun c hcap => ?_⟩
    obtain ⟨-, hle⟩ := lost_bit_bounds hsnk hcap hw.room hfull
    exact (huspos.trans hspos).symm ▸ lostAt_header hle

end

end Sys2Proof.Machine
end

section
/-! PROOF. `COMPRESS` (45_encoder.md R189 to R192): what it appends, and how a full sink ends it. -/

namespace Sys2Proof.Machine

section
variable {s g w : State} {tree : Tree}

/-- What `COMPRESS` leaves, for the state its steps end in. -/
def State.compressed (u : State) : State := (release u).withFlags false false false

theorem compressBody_of_steps (h : Prepared s g w tree) (hd : s.dir = .closed) (hread : Readable s)
    (hsnk : s.snk.present = true) : compressBody s = (encodeSteps tree w).finally State.compressed := by
  rw [compressBody_eq hd hread.1 hsnk, compressSteps_of_prepared h hd hread.1 hread.2 hsnk]
  rfl

theorem compressBody_ends (hd : s.dir = .closed) (hsrc : s.src.present = true) (hsnk : s.snk.present = true) :
    (compressBody s).All fun t => BodyFrame s t ∧ Released t := by
  have hrel : (compressBody s).All Released := compressBody_eq hd hsrc hsnk ▸ Res.finally_released release_released
  exact (compressBody_bodyFrame s).and hrel

theorem hasRoom_of_snk_eq (h : Prepared s g w tree) (n : Nat) : hasRoom n w = hasRoom n s := by
  obtain ⟨hsnk, -⟩ := h.streams
  exact hasRoom_congr hsnk n

theorem Prepared.encodes (h : Prepared s g w tree) (hread : Readable s) (hsnk : s.snk.present = true) :
    (hasRoom (pack (tree.header ++ tree.payload s.src.data)).length s = true ∧ ∃ t, encodeSteps tree w =
      .ok () (t.closedWith (s.snk.data ++ pack (tree.header ++ tree.payload s.src.data))) ∧ EncodeFrame w t ∧
      t.spos = s.src.data.length) ∨
    (hasRoom (pack (tree.header ++ tree.payload s.src.data)).length s = false ∧
      ∃ u, encodeSteps tree w = .raise .ioError u ∧ EncodeFails w tree u) := by
  obtain ⟨hwsnk, hwsrc, hwspos, -, -⟩ := h.streams
  have hwrote : Wrote w [] w := h.eq ▸ wrote_nil (g.withCodes tree)
  have hends := encodeSteps_ends hwrote (by rw [h.eq]; rfl) h.codes (by rw [Readable, hwsrc]; exact hread)
    (by rw [hwspos, hwsrc]) (by rw [hwsnk]; exact hsnk) fun b hb => by
      obtain ⟨c, hc, -⟩ := h.code (hwsrc ▸ hb)
      exact ⟨c, hc⟩
  rwa [hwsrc, hwsnk, hasRoom_of_snk_eq h] at hends

/-- `COMPRESS` with room in the sink ends `OK`, with header, payload and padding appended (R189, R192). -/
theorem compressBody_of_room (h : Prepared s g w tree) (hd : s.dir = .closed) (hread : Readable s)
    (hsnk : s.snk.present = true) (hroom : hasRoom (pack (tree.header ++ tree.payload s.src.data)).length s = true) :
    ∃ t, compressBody s = .ok () (t.closedWith (s.snk.data ++ pack (tree.header ++ tree.payload s.src.data))).compressed ∧
      EncodeFrame w t ∧ t.spos = s.src.data.length := by
  rw [compressBody_of_steps h hd hread hsnk]
  rcases h.encodes hread hsnk with ⟨-, t, ht, hframe, hspos⟩ | ⟨hfull, -⟩
  · exact ⟨t, by rw [ht, Res.finally_ok], hframe, hspos⟩
  · rw [hroom] at hfull; cases hfull

/-- On a full sink it ends in `IoError`, the sink filled to its capacity (R191, R192). -/
theorem compressBody_of_full_sink (h : Prepared s g w tree) (hd : s.dir = .closed) (hread : Readable s)
    (hsnk : s.snk.present = true) {c : Nat} (hcap : s.snk.cap = some c)
    (hfull : hasRoom (pack (tree.header ++ tree.payload s.src.data)).length s = false) :
    ∃ t, compressBody s = .raise .ioError t ∧ t.snk = { s.snk with
        data := s.snk.data ++ (pack (tree.header ++ tree.payload s.src.data)).take (c - s.snk.data.length) } ∧
      LostAt tree s.src.data (8 * (c - s.snk.data.length + 1)) t.spos := by
  obtain ⟨hwsnk, hwsrc, -⟩ := h.streams
  rw [compressBody_of_steps h hd hread hsnk]
  rcases h.encodes hread hsnk with ⟨hroom, -⟩ | ⟨-, u, hu, hfails⟩
  · rw [hroom] at hfull; cases hfull
  · refine ⟨u.compressed, by rw [hu, Res.finally_raise], ?_, ?_⟩
    · have hu := hfails.snk c (hwsnk ▸ hcap)
      rw [hwsnk, hwsrc] at hu
      rw [State.compressed, hfails.release]
      exact hu
    · have hu := hfails.spos c (hwsnk ▸ hcap)
      rw [hwsnk, hwsrc] at hu
      rw [State.compressed, hfails.release]
      exact hu

theorem EncodeFrame.snk_closedWith {t : State} (h : EncodeFrame w t) (d : List Byte) :
    (t.closedWith d).compressed.snk = { w.snk with data := d } := by
  rw [h]; rfl

theorem exec_build_aside {t e : State} (h : buildBody s = .ok () t) : exec .build (s.aside e) = .next (t.aside (endOk 0 e)) :=
  exec_aside rfl buildBody_blind h

theorem exec_freq_of_source (hd : s.dir = .closed) (hread : Readable s) :
    exec .freq s = .next (s.tallied.aside (endOk 0 s)) := by
  have hbody : freqBody s = .ok () s.tallied := freqBody_of_source (by simp [hd]) hread.1 hread.2
  rw [← ((freqBody_bodyFrame s).of_eq_ok hbody).endOk_eq]
  exact finishUnit_of_eq_ok hbody

end

/-- Settles O48: the steps are traced to the first push that fails, or to the end. -/
theorem compressWritesHeaderPayloadPadding : Obligations.CompressWritesHeaderPayloadPadding := by
  intro s hd hsrc he hlen hsnk
  have hread : Readable s := ⟨hsrc, he⟩
  obtain ⟨g, w, tree, h⟩ := exists_prepared hlen
  obtain ⟨hwsnk, -⟩ := h.streams
  have hissue : issue [.freq, .build] s = .next (g.aside (endOk 0 (endOk 0 s))) := by
    rw [issue_cons (exec_freq_of_source hd hread), issue_one (exec_build_aside h.build)]
  have hends := compressBody_ends hd hsrc hsnk
  refine ⟨g.aside (endOk 0 (endOk 0 s)), tree, ?_⟩
  cases hroom : hasRoom (pack (tree.header ++ tree.payload s.src.data)).length s with
  | true =>
    obtain ⟨t, ht, hframe, hspos⟩ := compressBody_of_room h hd hread hsnk hroom
    obtain ⟨hbody, hdir, hbuf, hcnt, hftV, htreeV, hctV⟩ := hends.of_eq_ok ht
    refine ⟨_, hissue, h.built.holds, fun b hb => h.code hb,
      finishUnit_of_eq_ok ht, fun _ => ⟨hbody.endsOk 0, ?_, hspos⟩, nofun, hdir, hbuf, hcnt, hftV,
      htreeV, hctV, hbody.cfg, hbody.src, hbody.inbox, hbody.hdr⟩
    exact hwsnk ▸ hframe.snk_closedWith _
  | false =>
    obtain ⟨c, hcap⟩ : ∃ c, s.snk.cap = some c := by
      cases hcap : s.snk.cap with
      | some c => exact ⟨c, rfl⟩
      | none => rw [hasRoom_of_no_cap hsnk hcap] at hroom; cases hroom
    obtain ⟨t, ht, htsnk, hlost⟩ := compressBody_of_full_sink h hd hread hsnk hcap hroom
    obtain ⟨hbody, hdir, hbuf, hcnt, hftV, htreeV, hctV⟩ := hends.of_eq_raise ht
    refine ⟨_, hissue, h.built.holds, fun b hb => h.code hb,
      finishUnit_of_eq_raise ht, nofun, fun c' hcap' _ => ?_, hdir, hbuf, hcnt, hftV,
      htreeV, hctV, hbody.cfg, hbody.src, hbody.inbox, hbody.hdr⟩
    obtain rfl := Option.some.inj (hcap.symm.trans hcap')
    exact ⟨hbody.endsFailed _, htsnk, fun lost hl => hl ▸ hlost⟩

end Sys2Proof.Machine
end

section
/-! PROOF. `COMPRESS` beside its commands (45_encoder.md R190), and `DECOMPRESS` behind it (46_decoder.md R208). -/

namespace Sys2Proof.Machine

/-- Settles O53: the sink holds header, codes and terminator of one tree, and `DECOMPRESS` stops at the terminator. -/
theorem decompressUndoesCompress : Obligations.DecompressUndoesCompress := by
  intro s hd hsrc he hlen hsnk
  have hread : Readable s := ⟨hsrc, fun e h => by rw [he] at h; cases h⟩
  obtain ⟨g, w, tree, h⟩ := exists_prepared hlen
  obtain ⟨hwsnk, -⟩ := h.streams
  have hpresent : s.snk.present = true := by rw [hsnk]
  obtain ⟨t, ht, hframe, -⟩ := compressBody_of_room h hd hread hpresent (hasRoom_of_no_cap hpresent (by rw [hsnk]) _)
  refine ⟨_, finishUnit_of_eq_ok ht, rfl, fun u hud husrc husnk => ?_⟩
  have hdata : (endOk 0 (t.closedWith (s.snk.data ++ pack (tree.header ++ tree.payload s.src.data))).compressed).snk.data =
      pack (tree.header ++ tree.payload s.src.data) := by
    change (t.closedWith (s.snk.data ++ pack (tree.header ++ tree.payload s.src.data))).compressed.snk.data = _
    rw [hframe.snk_closedWith, hsnk]
    rfl
  rw [hdata] at husrc
  obtain ⟨n, -, hbits, -⟩ := pack_spec (tree.header ++ tree.payload s.src.data)
  have hupresent : u.snk.present = true := by rw [husnk]
  obtain ⟨v, hv, ⟨hstatus, -⟩, hvsnk, -⟩ := decompressStopsAtTheTerminator u tree s.src.data (List.replicate n false) hud
    (by rw [husrc]) hupresent (hasRoom_of_no_cap hupresent (by rw [husnk]) _) h.wf
    (fun b hb => by obtain ⟨c, hc, -⟩ := h.code hb; exact ⟨c, hc⟩) ((opened_readable husrc).trans hbits)
  exact ⟨v, hv, hstatus, by rw [hvsnk, husnk]; rfl⟩

section
variable {s g w t e : State} {tree : Tree} {l m : List Bool} {out : List Byte}

/-- The commands between `s` and `t` have failed nowhere and left the host's words alone. -/
structure NoneFailed (s t : State) : Prop where
  faults : t.faults = s.faults
  hdr : t.hdr = s.hdr
  inbox : t.inbox = s.inbox

theorem noneFailed_endOk (s : State) : NoneFailed s (endOk 0 s) := ⟨rfl, rfl, rfl⟩

theorem NoneFailed.trans (h : NoneFailed s t) (k : NoneFailed t e) : NoneFailed s e :=
  ⟨k.faults.trans h.faults, k.hdr.trans h.hdr, k.inbox.trans h.inbox⟩

theorem Wrote.write_of_room (h : Wrote w l t) (hroom : hasRoom ((l ++ m).length / 8) w = true) :
    ∃ u, writeBits m t = .ok () u ∧ Wrote w (l ++ m) u ∧ u.spos = t.spos := by
  rcases h.write m with ⟨-, hok⟩ | ⟨hfull, -⟩
  · exact hok
  · rw [hroom] at hfull; cases hfull

theorem exec_codes_aside {hs : List NodeIx} (hv : g.treeV = true) (htree : g.tree? = some (tree, hs)) :
    exec .codes (g.aside e) = .next ((g.withCodes tree).aside (endOk 0 e)) :=
  finishUnit_of_eq_ok (codesBody_of_tree? (s := g.aside e) hv htree)

theorem exec_openw_aside (hd : s.dir = .closed) (hsnk : s.snk.present = true) :
    exec .openw (s.aside e) = .next (s.openedToWrite.aside (endOk 0 e)) :=
  finishUnit_of_eq_ok (openwBody_of_sink (s := s.aside e) hd hsnk)

theorem exec_sertree_aside {hs : List NodeIx} (hd : s.dir = .write) (hv : s.treeV = true) (htree : s.tree? = some (tree, hs))
    (h : writeBits tree.header s = .ok () t) : exec .sertree (s.aside e) = .next (t.aside (endOk 0 e)) :=
  exec_writes (congrArg finishUnit (sertreeBody_of_tree? (s := s.aside e) hd hv htree)) h

theorem exec_putsym_aside {b : Byte} {c : List Bool} (hd : s.dir = .write) (hv : s.ctV = true) (hcodes : HoldsCodes s tree)
    (hc : tree.code? (byteSym b) = some c) (h : writeBits c s = .ok () t) :
    exec (.putsym b) (s.aside e) = .next (t.aside (endOk 0 e)) :=
  exec_writes (congrArg finishUnit (putsymBody_of_codes (t := s.aside e) hd hv hcodes hc)) h

theorem exec_putterm_aside (hd : s.dir = .write) (hv : s.ctV = true) (hcodes : HoldsCodes s tree)
    (h : writeBits (tree.entry TERM).code s = .ok () t) : exec .putterm (s.aside e) = .next (t.aside (endOk 0 e)) :=
  exec_writes (congrArg finishUnit (puttermBody_of_codes (t := s.aside e) hd hv hcodes)) h

theorem exec_close_aside (h : closeBody s = .ok () t) : exec .close (s.aside e) = .next (t.aside (endOk 0 e)) :=
  exec_aside rfl closeBody_blind h

/-- A `PUTSYM` for each byte writes their codes, where the sink has room (R186). -/
theorem Wrote.putsyms (h : Wrote w l t) (hv : w.ctV = true) (hcodes : HoldsCodes w tree)
    (hcode : ∀ b ∈ out, ∃ c, tree.code? (byteSym b) = some c) (hroom : hasRoom ((l ++ tree.codes out).length / 8) w = true) :
    ∃ u e', issue (out.map .putsym) (t.aside e) = .next (u.aside e') ∧ NoneFailed e e' ∧
      Wrote w (l ++ tree.codes out) u ∧ u.spos = t.spos := by
  induction out generalizing l t e with
  | nil => exact ⟨t, e, rfl, ⟨rfl, rfl, rfl⟩, by simpa [Tree.codes] using h, rfl⟩
  | cons b out ih =>
    obtain ⟨⟨c, hc⟩, hcode⟩ := List.forall_mem_cons.mp hcode
    rw [Tree.codes_cons hc, ← List.append_assoc] at hroom ⊢
    obtain ⟨u, hu, hwrote, hspos⟩ := h.write_of_room (m := c)
      (hasRoom_mono hroom (Nat.div_le_div_right (List.prefix_append _ _).length_le))
    obtain ⟨v, e', hv', hf, hwrote', hspos'⟩ := ih (e := endOk 0 e) hwrote hcode hroom
    refine ⟨v, e', ?_, (noneFailed_endOk e).trans hf, hwrote', hspos'.trans hspos⟩
    rw [List.map_cons, issue_cons (exec_putsym_aside h.dir (h.ctV_eq.trans hv) (h.holdsCodes hcodes) hc hu), hv']

/-- The commands of R190 behind the opening of the channel, where the sink has room for all they write. -/
theorem issue_encode {hs : List NodeIx} (hw : Wrote w [] w) (hv : w.ctV = true) (hcodes : HoldsCodes w tree)
    (htv : w.treeV = true) (htree : w.tree? = some (tree, hs)) (hcode : ∀ b ∈ out, ∃ c, tree.code? (byteSym b) = some c)
    (hroom : hasRoom (pack (tree.header ++ tree.payload out)).length w = true) :
    ∃ y e', issue (.sertree :: (out.map .putsym ++ [.putterm, .close])) (w.aside e) =
        .next ((y.closedWith (w.snk.data ++ pack (tree.header ++ tree.payload out))).aside (endOk 0 e')) ∧
      NoneFailed e e' ∧ EncodeFrame w y ∧ y.spos = w.spos := by
  have room {l : List Bool} (hl : l <+: tree.header ++ tree.payload out) : hasRoom (l.length / 8) w = true := by
    have := hl.length_le
    exact hasRoom_mono hroom (by rw [length_pack]; omega)
  have htotal : tree.header ++ tree.codes out ++ (tree.entry TERM).code = tree.header ++ tree.payload out := by
    rw [Tree.payload, List.append_assoc]
  obtain ⟨x, hx, hwx, hsx⟩ := hw.write_of_room (m := tree.header) (room (List.prefix_append _ _))
  obtain ⟨y, e', hy, hf, hwy, hsy⟩ := hwx.putsyms (e := endOk 0 e) hv hcodes hcode (room ⟨_, htotal⟩)
  obtain ⟨z, hz, hwz, hsz⟩ := hwy.write_of_room (m := (tree.entry TERM).code) (by
    rw [List.nil_append, htotal]; exact room (List.prefix_refl _))
  rw [List.nil_append, htotal] at hwz
  rcases hwz.close with ⟨-, hclose⟩ | ⟨hfull, -⟩
  · refine ⟨z, endOk 0 e', ?_, ((noneFailed_endOk e).trans hf).trans (noneFailed_endOk e'), hwz.frame,
      hsz.trans (hsy.trans hsx)⟩
    rw [issue_cons (exec_sertree_aside hw.dir htv htree hx), issue_append hy,
      issue_cons (exec_putterm_aside hwy.dir (hwy.ctV_eq.trans hv) (hwy.holdsCodes hcodes) hz),
      issue_one (exec_close_aside hclose)]
  · rw [hroom] at hfull; cases hfull

theorem Prepared.flags (h : Prepared s g w tree) : w.ftV = true ∧ w.treeV = true ∧ w.ctV = true := by
  obtain ⟨hftV, -⟩ := h.frame.keeps
  rw [h.eq]
  exact ⟨hftV, h.built.treeV, rfl⟩

theorem EncodeFrame.flags_closedWith (h : EncodeFrame w t) (hw : w.ftV = true ∧ w.treeV = true ∧ w.ctV = true) (d : List Byte) :
    (t.closedWith d).ftV = true ∧ (t.closedWith d).treeV = true ∧ (t.closedWith d).ctV = true := by
  rw [h]; exact hw

/-- The commands of R190, in a sink with room. -/
theorem Prepared.issue (h : Prepared s g w tree) (hd : s.dir = .closed) (hread : Readable s) (hsnk : s.snk.present = true)
    (hroom : hasRoom (pack (tree.header ++ tree.payload s.src.data)).length s = true) :
    ∃ y e, issue ([.freq, .build, .codes, .openw, .sertree] ++ s.src.data.map .putsym ++ [.putterm, .close]) s =
        .next ((y.closedWith (s.snk.data ++ pack (tree.header ++ tree.payload s.src.data))).aside (endOk 0 e)) ∧
      NoneFailed s e ∧ EncodeFrame w y ∧ y.spos = s.src.data.length := by
  obtain ⟨hwsnk, -, hwspos, -⟩ := h.streams
  obtain ⟨hs, htree⟩ := h.tree?
  have hgtree : g.tree? = some (tree, hs) := by rw [← htree, h.eq]; rfl
  have hwrote : Wrote w [] w := h.eq ▸ wrote_nil (g.withCodes tree)
  obtain ⟨-, hwt, hwv⟩ := h.flags
  have hgd : (g.withCodes tree).dir = .closed := by
    obtain ⟨-, -, -, ⟨hdir, -⟩, -⟩ := h.frame.keeps
    exact hdir.trans hd
  have hgsnk : (g.withCodes tree).snk.present = true := by
    have : (g.withCodes tree).snk = s.snk := by rw [← hwsnk, h.eq]; rfl
    rw [this, hsnk]
  have hopen := exec_openw_aside (e := endOk 0 (endOk 0 (endOk 0 s))) hgd hgsnk
  rw [← h.eq] at hopen
  have hstart : NoneFailed s (endOk 0 (endOk 0 (endOk 0 (endOk 0 s)))) := ⟨rfl, rfl, rfl⟩
  obtain ⟨y, e, hy, hf, hframe, hspos⟩ := issue_encode (e := endOk 0 (endOk 0 (endOk 0 (endOk 0 s)))) hwrote hwv
    h.codes hwt htree (fun b hb => by obtain ⟨c, hc, -⟩ := h.code hb; exact ⟨c, hc⟩) ((hasRoom_of_snk_eq h _).trans hroom)
  rw [hwsnk] at hy
  refine ⟨y, e, ?_, hstart.trans hf, hframe, hspos.trans hwspos⟩
  rw [List.append_assoc, List.cons_append, issue_cons (exec_freq_of_source hd hread), List.cons_append,
    issue_cons (exec_build_aside h.build), List.cons_append, issue_cons (exec_codes_aside h.built.treeV hgtree),
    List.cons_append, issue_cons hopen, ← hy]
  rfl

/-- `COMPRESS` and its commands, each in a state that differs from `w` in nothing but what encoding writes. -/
theorem EncodeFrame.closedWith (h : EncodeFrame w t) (k : EncodeFrame w s) (d : List Byte) :
    (t.closedWith d).compressed.snk = (s.closedWith d).snk ∧ KeepsChannel (s.closedWith d) (t.closedWith d).compressed ∧
      KeepsTables (s.closedWith d) (t.closedWith d).compressed ∧ (t.closedWith d).compressed.cfg = (s.closedWith d).cfg ∧
      (t.closedWith d).compressed.src = (s.closedWith d).src := by
  rw [h, k]
  exact ⟨rfl, ⟨rfl, rfl, rfl⟩, ⟨rfl, ⟨rfl, rfl, rfl⟩, rfl⟩, rfl, rfl⟩

end

/-- Settles O49: the commands write the same bits from the same tree, and no push of either fails. -/
theorem compressEqualsItsCommands : Obligations.CompressEqualsItsCommands := by
  intro s hd hsrc he hlen hsnk
  have hread : Readable s := ⟨hsrc, fun e h => by rw [he] at h; cases h⟩
  obtain ⟨g, w, tree, h⟩ := exists_prepared hlen
  refine ⟨fun hcap => ?_, fun t ht hok => ?_⟩
  · obtain ⟨t, ht, -⟩ := compressBody_of_room h hd hread hsnk (hasRoom_of_no_cap hsnk hcap _)
    exact ⟨_, finishUnit_of_eq_ok ht, rfl⟩
  · cases hroom : hasRoom (pack (tree.header ++ tree.payload s.src.data)).length s with
    | false =>
      obtain ⟨c, hcap⟩ : ∃ c, s.snk.cap = some c := by
        cases hcap : s.snk.cap with
        | some c => exact ⟨c, rfl⟩
        | none => rw [hasRoom_of_no_cap hsnk hcap] at hroom; cases hroom
      obtain ⟨u, hu, -⟩ := compressBody_of_full_sink h hd hread hsnk hcap hroom
      obtain rfl := Host.Outcome.next.inj (ht.symm.trans (finishUnit_of_eq_raise hu))
      cases hok
    | true =>
      obtain ⟨x, hx, hxframe, hxspos⟩ := compressBody_of_room h hd hread hsnk hroom
      obtain rfl := Host.Outcome.next.inj (ht.symm.trans (finishUnit_of_eq_ok hx))
      obtain ⟨hbody, hdir, hbuf, hcnt, hftV, htreeV, hctV⟩ := (compressBody_ends hd hsrc hsnk).of_eq_ok hx
      obtain ⟨y, e, hy, hnone, hyframe, hyspos⟩ := h.issue hd hread hsnk hroom
      obtain ⟨hsnk', hchan, htables, hcfg, hsrc'⟩ :=
        hxframe.closedWith hyframe (s.snk.data ++ pack (tree.header ++ tree.payload s.src.data))
      refine ⟨_, hy, hsnk', hxspos.trans hyspos.symm, rfl, hbody.faults.trans hnone.faults.symm, rfl, hchan, htables,
        ⟨hcfg, hsrc', hbody.inbox.trans hnone.inbox.symm, hbody.hdr.trans hnone.hdr.symm⟩, hftV, htreeV, hctV,
        hyframe.flags_closedWith h.flags (s.snk.data ++ pack (tree.header ++ tree.payload s.src.data))⟩

end Sys2Proof.Machine
end

section
/-! PROOF. The tables behind their flags (10_state.md R29, R31, R36; 41_frequency.md R132): the commands that write them
end, and leave them valid. -/

namespace Sys2Proof.Machine

/-- The operation does not stop, and the state it ends in, or fails in, meets `P`. -/
def Res.Ends {α : Type} (P : State → Prop) : Res α → Prop
  | .ok _ t    => P t
  | .raise _ t => P t
  | .stuck _   => False

/-- What stands behind the three flags is valid (R29). -/
structure TablesOk (s : State) : Prop where
  ft : FtOk s
  tree : TreeOk s
  codes : CodesOk s

section
variable {α : Type} {P : State → Prop} {r : Res α} {s t : State} {f : Failure} {tree : Tree} {i : Instr}

theorem Res.Ends.of_ok {a : α} (h : r = .ok a t) (hP : P t) : r.Ends P := h ▸ hP

theorem Res.Ends.of_raise (h : r = .raise f t) (hP : P t) : r.Ends P := h ▸ hP

theorem Res.Ends.answers {r : Res Unit} (h : r.Ends P) : ∃ t, finishUnit r = .next t := by
  cases r with
  | ok a t => exact ⟨_, rfl⟩
  | raise f t => exact ⟨_, rfl⟩
  | stuck e => exact h.elim

/-! ## What the invariants of the tables look at -/

theorem HoldsTree.congr (h : HoldsTree s tree) (hcfg : t.cfg = s.cfg) (hk : KeepsTree s t) : HoldsTree t tree := by
  obtain ⟨hnode, hncnt, hroot⟩ := hk
  unfold HoldsTree State.tree? WeightsOk at *
  rwa [hcfg, hnode, hncnt, hroot]

theorem FtOk.congr (h : FtOk s) (hcfg : t.cfg = s.cfg) (hft : t.ft = s.ft) (hv : t.ftV = s.ftV) : FtOk t := by
  unfold FtOk at *
  rwa [hcfg, hft, hv]

theorem KeepsTree.symm (h : KeepsTree s t) : KeepsTree t s := by
  obtain ⟨hnode, hncnt, hroot⟩ := h
  exact ⟨hnode.symm, hncnt.symm, hroot.symm⟩

theorem TreeOk.congr (h : TreeOk s) (hcfg : t.cfg = s.cfg) (hk : KeepsTree s t) (hv : t.treeV = s.treeV) : TreeOk t := by
  intro htv
  obtain ⟨tree, htree⟩ := h (hv ▸ htv)
  exact ⟨tree, htree.congr hcfg hk⟩

theorem CodesOk.congr (h : CodesOk s) (hcfg : t.cfg = s.cfg) (hk : KeepsTree s t) (hv : t.treeV = s.treeV)
    (hct : t.ct = s.ct) (hcv : t.ctV = s.ctV) : CodesOk t := by
  intro htv
  obtain ⟨hsv, hcodes⟩ := h (hcv ▸ htv)
  refine ⟨hv.trans hsv, fun tree htree => ?_⟩
  have := hcodes tree (htree.congr hcfg.symm hk.symm)
  unfold HoldsCodes at *
  rwa [hct]

theorem FtOk.of_invalid (h : t.ftV = false) : FtOk t := fun hv => by rw [h] at hv; cases hv

theorem TreeOk.of_invalid (h : t.treeV = false) : TreeOk t := fun hv => by rw [h] at hv; cases hv

theorem CodesOk.of_invalid (h : t.ctV = false) : CodesOk t := fun hv => by rw [h] at hv; cases hv

theorem Released.tablesOk (h : Released t) : TablesOk t := ⟨.of_invalid h.ftV, .of_invalid h.treeV, .of_invalid h.ctV⟩

theorem HoldsTree.unique {tree' : Tree} (h : HoldsTree s tree) (k : HoldsTree s tree') : tree' = tree := by
  obtain ⟨hs, h, -⟩ := h
  obtain ⟨hs', k, -⟩ := k
  have := h.symm.trans k
  simp only [Option.some.injEq, Prod.mk.injEq] at this
  exact this.1.symm

/-! ## The commands that write the tables -/

theorem SourceOk.length_lt (h : SourceOk s) : s.src.data.length < 2 ^ s.cfg.cw := by
  obtain ⟨hlegal, -⟩ := h
  exact (Source.legal_iff.mp hlegal).1

theorem tallied_ftOk (h : SourceOk s) : FtOk s.tallied := fun _ =>
  ⟨_, (tallied_holdsCounts s).allWritten, (sum_counts _).trans_lt h.length_lt⟩

theorem freqBody_ends (hs : SourceOk s) (ht : TablesOk s) : (freqBody s).Ends TablesOk := by
  have cleared (n : Nat) : TablesOk (s.flagsCleared.counted n) := ⟨.of_invalid rfl, .of_invalid rfl, .of_invalid rfl⟩
  by_cases hd : s.dir = .read
  · exact .of_raise (if_pos hd) ht
  cases hp : s.src.present with
  | false => exact .of_raise (freqBody_of_no_source hd hp) ⟨.of_invalid rfl, .of_invalid rfl, .of_invalid rfl⟩
  | true =>
    by_cases he : ∀ e, s.src.errAt = some e → s.src.data.length < e
    · exact .of_ok (t := s.tallied) (freqBody_of_source hd hp he) ⟨tallied_ftOk hs, .of_invalid rfl, .of_invalid rfl⟩
    · push Not at he
      obtain ⟨e, he, hle⟩ := he
      exact .of_raise (freqBody_of_error hd hp he hle) (cleared e)

theorem buildBody_ends (ht : TablesOk s) : (buildBody s).Ends TablesOk := by
  cases hv : s.ftV with
  | false => exact .of_raise (buildBody_of_no_counts hv) ht
  | true =>
    obtain ⟨f, hf, hsum⟩ := ht.ft.counts hv
    obtain ⟨t, tree, hbody, hb⟩ := buildBody_of_holdsCounts hv hf hsum
    have hframe : BuildFrame s t := (buildBody_frame s).of_eq_ok hbody
    obtain ⟨hftV, hft, -, -, ⟨hcfg, -⟩, -⟩ := hframe.keeps
    exact .of_ok hbody ⟨ht.ft.congr hcfg hft hftV, fun _ => ⟨tree, hb.holds⟩, .of_invalid hb.ctV⟩

theorem codesBody_ends (ht : TablesOk s) : (codesBody s).Ends TablesOk := by
  cases hv : s.treeV with
  | false => exact .of_raise (codesBody_of_no_tree hv) ht
  | true =>
    obtain ⟨tree, htree⟩ := ht.tree hv
    obtain ⟨hs, htree?, -, -, hwf, -⟩ := id htree
    refine .of_ok (codesBody_of_tree? hv htree?) ⟨ht.ft, ht.tree, fun _ => ⟨hv, fun tree' htree' => ?_⟩⟩
    rw [htree.unique (htree'.congr (t := s) rfl ⟨rfl, rfl, rfl⟩)]
    exact withCodes_holdsCodes hwf s

theorem destreeBody_ends (ht : TablesOk s) : (destreeBody s).Ends TablesOk := by
  by_cases hd : s.dir = .read
  · have ftOk {t : State} (h : DestreeFrame s t) : FtOk t := by
      obtain ⟨hftV, hft, -, -, ⟨hcfg, -⟩, -⟩ := h.keeps
      exact ht.ft.congr hcfg hft hftV
    have fails {f : Failure} {t : State} (h : destreeBody s = .raise f t) : (destreeBody s).Ends TablesOk := by
      obtain ⟨htreeV, hctV, -⟩ := destreeBody_raise_cleared hd h
      exact .of_raise h ⟨ftOk ((destreeBody_frame s).of_eq_raise h), .of_invalid htreeV, .of_invalid hctV⟩
    by_cases hm : ∃ (tree : Tree) (l : List Bool), tree.Wf ∧ s.readable = tree.header ++ l
    · obtain ⟨tree, l, hwf, hl⟩ := hm
      obtain ⟨hs, t, hbody, h⟩ := destreeBody_of_header hd hwf hl
      exact .of_ok hbody ⟨ftOk ((destreeBody_frame s).of_eq_ok hbody), fun _ => ⟨tree, h.holdsTree hwf⟩, .of_invalid h.ctV⟩
    · rcases destreeBody_of_no_header hd fun tree l hwf hl => hm ⟨tree, l, hwf, hl⟩ with ⟨t, h⟩ | ⟨t, h, -⟩
      · exact fails h
      · exact fails h
  · exact .of_raise (if_pos hd) ht

/-! ## `COMPRESS` and `DECOMPRESS` -/

theorem macroReady_cases (s : State) : (s.dir = .closed ∧ s.src.present = true ∧ s.snk.present = true) ∨
    ∃ f, macroReady s = .raise f s := by
  by_cases hd : s.dir = .closed
  · cases hsrc : s.src.present with
    | false => exact .inr ⟨_, macroReady_of_absent hd (.inl hsrc)⟩
    | true =>
      cases hsnk : s.snk.present with
      | false => exact .inr ⟨_, macroReady_of_absent hd (.inr hsnk)⟩
      | true => exact .inl ⟨hd, rfl, rfl⟩
  · exact .inr ⟨_, macroReady_of_open hd⟩

theorem compressBody_of_not_ready (h : macroReady s = .raise f s) : compressBody s = .raise f s := by
  rw [compressBody, h, Res.bind_raise]

theorem decompressBody_of_not_ready (h : macroReady s = .raise f s) : decompressBody s = .raise f s := by
  rw [decompressBody, h, Res.bind_raise]

theorem compressBody_tablesOk (hs : SourceOk s) (ht : TablesOk s) : (compressBody s).Ends TablesOk := by
  rcases macroReady_cases s with ⟨hd, hsrc, hsnk⟩ | ⟨f, hf⟩
  · by_cases he : ∀ e, s.src.errAt = some e → s.src.data.length < e
    · obtain ⟨g, w, tree, h⟩ := exists_prepared hs.length_lt
      have hbody := compressBody_of_steps h hd ⟨hsrc, he⟩ hsnk
      have hends := compressBody_ends hd hsrc hsnk
      rcases h.encodes ⟨hsrc, he⟩ hsnk with ⟨-, t, hsteps, -⟩ | ⟨-, u, hsteps, -⟩
      · have hok := hbody.trans (by rw [hsteps, Res.finally_ok])
        obtain ⟨-, hrel⟩ := hends.of_eq_ok hok
        exact .of_ok hok hrel.tablesOk
      · have hraise := hbody.trans (by rw [hsteps, Res.finally_raise])
        obtain ⟨-, hrel⟩ := hends.of_eq_raise hraise
        exact .of_raise hraise hrel.tablesOk
    · push Not at he
      obtain ⟨e, he, hle⟩ := he
      exact .of_raise (compressBody_of_error hd hsrc hsnk he hle) (closeChan_released _).tablesOk
  · exact .of_raise (compressBody_of_not_ready hf) ht

theorem exists_byteSym {x : Sym} (hx : x ≠ TERM) : ∃ b, byteSym b = x := by
  have hlt : x.val < 256 := by
    have hne : x.val ≠ 256 := fun h => hx (Fin.ext h)
    have := x.isLt
    omega
  exact ⟨BitVec.ofNat 8 x.val, Fin.ext (Nat.mod_eq_of_lt hlt)⟩

/-- A turn of the loop takes at least one bit, so it ends where it may take more turns than there are bits (R206). -/
theorem Decoding.loop_ends (h : Decoding tree s) (hwf : tree.Wf) {n : Nat} (hn : s.readable.length < n) :
    (∃ t, decodeLoop n s = .ok () t ∧ t.dir = .read) ∨ ∃ f t, decodeLoop n s = .raise f t := by
  induction n generalizing s with
  | zero => omega
  | succ n ih =>
    by_cases hc : ∃ x c m, tree.code? x = some c ∧ s.readable = c ++ m
    · obtain ⟨x, c, m, hc, hm⟩ := hc
      by_cases hx : x = TERM
      · subst hx
        obtain ⟨t, ht, -, hing⟩ := h.stops hc hm n
        exact .inl ⟨t, ht, hing.dir⟩
      obtain ⟨b, rfl⟩ := exists_byteSym hx
      cases hp : pushFails s with
      | true =>
        obtain ⟨t, ht, -⟩ := h.loses hc hm hp n
        exact .inr ⟨_, t, ht⟩
      | false =>
        obtain ⟨t, ht, -, hing, rfl⟩ := h.turn hc hm hp
        have hpos := List.length_pos_of_ne_nil (hwf.code_ne_nil hc)
        rw [hm, List.length_append] at hn
        rw [ht]
        exact ih hing (by omega)
    · obtain ⟨t, ht, -⟩ := h.cut hwf (fun x c hx ⟨m, hm⟩ => hc ⟨x, c, m, hx, hm.symm⟩) n
      exact .inr ⟨_, t, ht⟩

theorem decompressBody_tablesOk (ht : TablesOk s) : (decompressBody s).Ends TablesOk := by
  rcases macroReady_cases s with ⟨hd, hsrc, hsnk⟩ | ⟨f, hf⟩
  · have hends := decompressBody_ends hd hsrc hsnk
    have oks {t : State} (h : decompressBody s = .ok () t) : (decompressBody s).Ends TablesOk := by
      obtain ⟨-, -, hrel⟩ := hends.of_eq_ok h
      exact .of_ok h hrel.tablesOk
    have raises {f : Failure} {t : State} (h : decompressBody s = .raise f t) : (decompressBody s).Ends TablesOk := by
      obtain ⟨-, -, hrel⟩ := hends.of_eq_raise h
      exact .of_raise h hrel.tablesOk
    by_cases hm : ∃ (tree : Tree) (l : List Bool), tree.Wf ∧ s.opened.readable = tree.header ++ l
    · obtain ⟨tree, m, hwf, hm⟩ := hm
      obtain ⟨d, -, hing, hrest, hbody⟩ := decompressBody_of_header hd hsrc hsnk hwf hm
      have hlen := length_opened_readable_le s
      rw [hm, List.length_append] at hlen
      rcases hing.loop_ends hwf (n := 8 * s.src.data.length + 1) (by rw [hrest]; omega) with ⟨t, hloop, hdir⟩ | ⟨f, t, hloop⟩
      · exact oks (decompressBody_of_decode_ok hbody hloop hdir)
      · exact raises (decompressBody_of_decode_raise hbody hloop)
    · obtain ⟨u, f, hbody, -⟩ :=
        decompressBody_of_no_header hd hsrc hsnk fun tree l hwf hl => hm ⟨tree, l, hwf, hl⟩
      exact raises hbody
  · exact .of_raise (decompressBody_of_not_ready hf) ht

end
end Sys2Proof.Machine
end

section
/-! PROOF. The invariants of the machine are kept by every step (10_state.md R27 to R29, R31, R36, R37, R40, R46). -/

namespace Sys2Proof.Machine

section
variable {s t u : State} {i : Instr} {f : Failure} {v : Sym} {l : List HostAct}

/-! ## The record of failures, the source -/

theorem endOk_statusOk (h : u.faults.getLsbD 0 = false) : StatusOk (endOk v u) := ⟨h, nofun⟩

theorem endFail_statusOk (h : u.faults.getLsbD 0 = false) : StatusOk (endFail f u) := by
  have hcode : f.code.toNat ≠ 0 := by cases f <;> decide
  refine ⟨?_, fun g hg => ?_⟩
  · rw [show (endFail f u).faults = recordFault u.faults f from rfl, getLsbD_recordFault, h]
    simpa using hcode.symm
  · cases hg
    exact ⟨by rw [show (endFail f u).faults = recordFault u.faults f from rfl, getLsbD_recordFault]; simp, rfl⟩

theorem SourceOk.advances (h : SourceOk s) (hframe : BodyFrame s u) (hadv : Advances s u) : SourceOk u := by
  have hlen := h.length_lt
  obtain ⟨hlegal, hspos⟩ := h
  have := hadv.spos
  refine ⟨by rw [hframe.src, hframe.cfg]; exact hlegal, ?_⟩
  rw [hframe.cfg]
  omega

/-! ## The tables -/

theorem Res.Ends.tablesOk {r : Res Unit} (h : r.Ends TablesOk) (ht : finishUnit r = .next t) : TablesOk t := by
  obtain ⟨u, rfl, rfl⟩ | ⟨f, u, rfl, rfl⟩ := finishUnit_eq_next.mp ht
  · exact ⟨h.ft, h.tree, h.codes⟩
  · exact ⟨h.ft, h.tree, h.codes⟩

/-- A command writes no table and no flag but those it owns. -/
theorem TablesOk.owned (h : TablesOk s) (hframe : BodyFrame s u) (hown : Owned i s u)
    (hi : i ∉ [.freq, .build, .codes, .destree, .compress, .decompress]) : TablesOk u := by
  simp only [List.mem_cons, List.not_mem_nil, or_false, not_or] at hi
  obtain ⟨hfreq, hbuild, hcodes, hdestree, hcompress, hdecompress⟩ := hi
  obtain ⟨⟨hft, htree, hct, hftV, htreeV, hctV⟩, -⟩ := hown
  have hft' : u.ft = s.ft := hft (by simp [*])
  have htree' : KeepsTree s u := htree (by simp [*])
  have hct' : u.ct = s.ct := hct (by simp [*])
  have hftV' : u.ftV = s.ftV := hftV (by simp [*])
  have htreeV' : u.treeV = s.treeV := htreeV (by simp [*])
  have hctV' : u.ctV = s.ctV := hctV (by simp [*])
  exact ⟨h.ft.congr hframe.cfg hft' hftV', h.tree.congr hframe.cfg htree' htreeV',
    h.codes.congr hframe.cfg htree' htreeV' hct' hctV'⟩

theorem exec_tablesOk (hi : i.isCommand = true) (hs : SourceOk s) (h : TablesOk s) (ht : exec i s = .next t) : TablesOk t := by
  by_cases hown : i ∈ [.freq, .build, .codes, .destree, .compress, .decompress]
  · simp only [List.mem_cons, List.not_mem_nil, or_false] at hown
    rcases hown with rfl | rfl | rfl | rfl | rfl | rfl
    · exact (freqBody_ends hs h).tablesOk ht
    · exact (buildBody_ends h).tablesOk ht
    · exact (codesBody_ends h).tablesOk ht
    · exact (destreeBody_ends h).tablesOk ht
    · exact (compressBody_tablesOk hs h).tablesOk ht
    · exact (decompressBody_tablesOk h).tablesOk ht
  · obtain ⟨u, hframe, -, hu, ⟨v, rfl⟩ | ⟨f, rfl⟩⟩ := exec_command_ends hi ht
    · obtain ⟨hft, htree, hcodes⟩ := h.owned hframe hu hown
      exact ⟨hft, htree, hcodes⟩
    · obtain ⟨hft, htree, hcodes⟩ := h.owned hframe hu hown
      exact ⟨hft, htree, hcodes⟩

/-! ## Every step -/

theorem Inv.tablesOk (h : Inv s) : TablesOk s := by
  obtain ⟨-, -, -, hft, htree, hcodes, -⟩ := h
  exact ⟨hft, htree, hcodes⟩

theorem isCommand_of_decodeWord {w : Word} (h : decodeWord w = .ok i) : i.isCommand = true := by
  have henc := encode_of_decodeWord h
  cases i with
  | int | leafb | leaft => cases henc
  | _ => rfl

theorem exec_inv (hi : i.isCommand = true) (hs : Inv s) (ht : exec i s = .next t) : Inv t := by
  have htables := hs.tablesOk
  obtain ⟨hchan, ⟨hfaults, -⟩, hsrc, -, -, -, hhdr⟩ := hs
  obtain ⟨hft, htree, hcodes⟩ := exec_tablesOk hi hsrc htables ht
  have hchan' := exec_channelKept ht hchan
  obtain ⟨u, hframe, hadv, -, hend⟩ := exec_command_ends hi ht
  have hsrc' : SourceOk u := hsrc.advances hframe hadv
  have hfaults' : u.faults.getLsbD 0 = false := hframe.faults ▸ hfaults
  have hhdr' : u.hdr = none := hframe.hdr.trans hhdr
  rcases hend with ⟨v, rfl⟩ | ⟨f, rfl⟩
  · exact ⟨hchan', endOk_statusOk hfaults', hsrc', hft, htree, hcodes, hhdr'⟩
  · exact ⟨hchan', endFail_statusOk hfaults', hsrc', hft, htree, hcodes, hhdr'⟩

/-- The host's words are no part of the invariants. -/
theorem Inv.withInbox (h : Inv s) (l : List HostAct) : Inv (s.withInbox l) := h

theorem applyReset_inv (h : Inv s) : Inv (applyReset s) := by
  obtain ⟨-, -, ⟨hlegal, -⟩, -⟩ := h
  exact ⟨.of_closed rfl rfl rfl, ⟨BitVec.getLsbD_zero, nofun⟩, ⟨hlegal, Nat.two_pow_pos _⟩, .of_invalid rfl, .of_invalid rfl,
    .of_invalid rfl, rfl⟩

end

/-- Settles O59: a command keeps the parts of the invariant one by one, and so does each move of the host. -/
theorem stepKeepsTheInvariants : Obligations.StepKeepsTheInvariants := by
  intro s t hs h
  have hnone : s.hdr = none := by
    obtain ⟨-, -, -, -, -, -, hhdr⟩ := hs
    exact hhdr
  cases step_cases h with
  | waits _ _ ht => exact ht ▸ hs
  | command l i _ w _ hw h => exact exec_inv (isCommand_of_decodeWord hw) (hs.withInbox l) h
  | illegal l _ ht =>
    obtain ⟨hchan, ⟨hfaults, -⟩, hsrc, hft, htree, hcodes, hhdr⟩ := hs
    exact ht ▸ ⟨hchan, endFail_statusOk hfaults, hsrc, hft, htree, hcodes, hhdr⟩
  | bindSource l r _ hr ht =>
    obtain ⟨hchan, hstatus, ⟨-, hspos⟩, hft, htree, hcodes, hhdr⟩ := hs
    exact ht ▸ ⟨hchan, hstatus, ⟨hr, hspos⟩, hft, htree, hcodes, hhdr⟩
  | bindSink l k _ ht => exact ht ▸ hs
  | reset l _ ht => exact ht ▸ applyReset_inv (hs.withInbox l)
  | token p tok u hh _ _ => rw [hnone] at hh; cases hh
  | headerFails p f u hh _ _ _ => rw [hnone] at hh; cases hh

end Sys2Proof.Machine
end

section
/-! PROOF. Under the invariants no step stops (10_state.md R30, R45; 44_treecodec.md R174; 46_decoder.md R206). -/

namespace Sys2Proof.Machine

section
variable {s : State} {i : Instr}

/-- `CLOSE` ends in every state (R122). -/
theorem closeBody_answers (s : State) : ∃ t, finishUnit (closeBody s) = .next t := by
  by_cases h : s.dir ≠ .write ∨ s.cnt.val = 0
  · exact ⟨_, finishUnit_of_eq_ok (closeBody_of_nothing_buffered h)⟩
  · push Not at h
    obtain ⟨hd, hc⟩ := h
    cases hp : pushFails s with
    | false => exact ⟨_, finishUnit_of_eq_ok (closeBody_of_push hd (Nat.pos_of_ne_zero hc) hp)⟩
    | true => exact ⟨_, finishUnit_of_eq_raise (closeBody_of_pushFails hd (Nat.pos_of_ne_zero hc) hp)⟩

/-- Bits written to an open channel that meets its invariants end one way or the other (R113). -/
theorem writeBits_answers (l : List Bool) (hd : s.dir = .write) (hchan : ChannelOk s) :
    ∃ t, finishUnit (writeBits l s) = .next t := by
  obtain ⟨hc, -⟩ := hchan.of_write hd
  rcases writeBits_ends l hd hc with ⟨-, t, ht, -⟩ | ⟨-, t, ht, -⟩
  · exact ⟨_, finishUnit_of_eq_ok ht⟩
  · exact ⟨_, finishUnit_of_eq_raise ht⟩

theorem exec_open_answers (h : i = .openr ∨ i = .openw) (hd : s.dir = .closed) : ∃ t, exec i s = .next t := by
  rcases h with rfl | rfl
  · cases hp : s.src.present with
    | true => exact ⟨_, exec_openr hd hp⟩
    | false => exact ⟨_, finishUnit_of_eq_raise (openrBody_of_no_source hd hp)⟩
  · cases hp : s.snk.present with
    | true => exact ⟨_, exec_openw hd hp⟩
    | false => exact ⟨_, finishUnit_of_eq_raise (openwBody_of_no_sink hd hp)⟩

theorem exec_rdbit_answers (hd : s.dir = .read) : ∃ t, exec .rdbit s = .next t := by
  rcases readBit_ends' hd with ⟨b, t, ht, -⟩ | ⟨-, ht, -⟩
  · obtain ⟨hexec, -⟩ := exec_rdbit_of_readBit ht
    exact ⟨_, hexec⟩
  · exact ⟨_, exec_rdbit_of_raise ht⟩

theorem exec_rdbyte_answers (hd : s.dir = .read) : ∃ t, exec .rdbyte s = .next t := by
  have hexec : exec .rdbyte s = finish ((readByte s).bind fun v s => .ok (byteSym v) s) := rfl
  rcases readByte_ends hd with ⟨v, t, ht, -⟩ | ⟨-, t, ht, -⟩
  · exact ⟨_, by rw [hexec, ht, Res.bind_ok]; rfl⟩
  · exact ⟨_, by rw [hexec, ht, Res.bind_raise]; rfl⟩

theorem exec_wrbit_answers (b : Bool) (hd : s.dir = .write) (hchan : ChannelOk s) : ∃ t, exec (.wrbit b) s = .next t := by
  obtain ⟨hc, -⟩ := hchan.of_write hd
  rcases writeBit_ends hd hc b with ⟨t, ht, -⟩ | ⟨-, -, ht⟩
  · exact ⟨_, finishUnit_of_eq_ok ht⟩
  · exact ⟨_, finishUnit_of_eq_raise ht⟩

theorem exec_sertree_answers (hd : s.dir = .write) (hchan : ChannelOk s) (htree : TreeOk s) : ∃ t, exec .sertree s = .next t := by
  cases hv : s.treeV with
  | false => exact ⟨_, finishUnit_of_eq_raise (sertreeBody_of_no_tree hd hv)⟩
  | true =>
    obtain ⟨tree, hs, htree?, -⟩ := htree hv
    obtain ⟨t, ht⟩ := writeBits_answers tree.header hd hchan
    exact ⟨t, (congrArg finishUnit (sertreeBody_of_tree? hd hv htree?)).trans ht⟩

theorem exec_putsym_answers (v : Byte) (hd : s.dir = .write) (hchan : ChannelOk s) (ht : TablesOk s) :
    ∃ t, exec (.putsym v) s = .next t := by
  cases hv : s.ctV with
  | false => exact ⟨_, finishUnit_of_eq_raise (putsymBody_of_no_table hd hv)⟩
  | true =>
    obtain ⟨htv, hcodes⟩ := ht.codes hv
    obtain ⟨tree, htree⟩ := ht.tree htv
    have hct := hcodes tree htree (byteSym v)
    have he : s.ct[v.toNat]? = some (some (tree.entry (byteSym v))) :=
      Vector.getElem?_eq_some_iff.mpr ⟨(byteSym v).isLt, hct⟩
    have hexec : exec (.putsym v) s = _ := congrArg finishUnit (putsymBody_of_entry hd hv he)
    rw [hexec]
    split
    · exact writeBits_answers _ hd hchan
    · exact ⟨_, rfl⟩

theorem exec_putterm_answers (hd : s.dir = .write) (hchan : ChannelOk s) (ht : TablesOk s) :
    ∃ t, exec .putterm s = .next t := by
  cases hv : s.ctV with
  | false => exact ⟨_, finishUnit_of_eq_raise (puttermBody_of_no_table hd hv)⟩
  | true =>
    obtain ⟨htv, hcodes⟩ := ht.codes hv
    obtain ⟨tree, htree⟩ := ht.tree htv
    have hexec : exec .putterm s = _ := congrArg finishUnit (puttermBody_of_codes hd hv (hcodes tree htree))
    rw [hexec]
    exact writeBits_answers _ hd hchan

theorem exec_getsym_answers (hd : s.dir = .read) (htree : TreeOk s) : ∃ t, exec .getsym s = .next t := by
  cases hv : s.treeV with
  | false => exact ⟨_, exec_getsym_of_raise (getsymBody_of_no_tree hd hv)⟩
  | true =>
    obtain ⟨tree, hs, htree?, -, -, hwf, -⟩ := htree hv
    by_cases hc : ∃ x c m, tree.code? x = some c ∧ s.readable = c ++ m
    · obtain ⟨x, c, m, hc, hm⟩ := hc
      obtain ⟨t, ht, -⟩ := getsymBody_of_code hd hv htree? hc hm
      exact ⟨_, exec_getsym_of_ok ht⟩
    · obtain ⟨t, ht, -⟩ := getsymBody_of_no_code hd hv htree? hwf.1 fun x c hx ⟨m, hm⟩ => hc ⟨x, c, m, hx, hm.symm⟩
      exact ⟨_, exec_getsym_of_raise ht⟩

/-- Under the invariants every command ends (R206, R264). -/
theorem exec_answers (hi : i.isCommand = true) (h : Inv s) : ∃ t, exec i s = .next t := by
  have ht := h.tablesOk
  obtain ⟨hchan, -, hsrc, -⟩ := h
  cases hf : dirFailure i s.dir with
  | some f => exact ⟨_, exec_of_dirFailure hf⟩
  | none =>
    have needed {n : Dir} (hn : neededDir i = some n) : s.dir = n := by
      by_contra hd
      have := dirFailure_eq_some_iff.mpr (.inl ⟨n, hn, hd, rfl⟩)
      rw [hf] at this
      cases this
    cases i with
    | openr => exact exec_open_answers (.inl rfl) (needed rfl)
    | openw => exact exec_open_answers (.inr rfl) (needed rfl)
    | rdbit => exact exec_rdbit_answers (needed rfl)
    | rdbyte => exact exec_rdbyte_answers (needed rfl)
    | wrbit b => exact exec_wrbit_answers b (needed rfl) hchan
    | wrbyte v => exact writeBits_answers (byteBits v) (needed rfl) hchan
    | close => exact closeBody_answers s
    | freq => exact (freqBody_ends hsrc ht).answers
    | build => exact (buildBody_ends ht).answers
    | codes => exact (codesBody_ends ht).answers
    | sertree => exact exec_sertree_answers (needed rfl) hchan ht.tree
    | destree => exact (destreeBody_ends ht).answers
    | putsym v => exact exec_putsym_answers v (needed rfl) hchan ht
    | putterm => exact exec_putterm_answers (needed rfl) hchan ht
    | getsym => exact exec_getsym_answers (needed rfl) ht.tree
    | compress => exact (compressBody_tablesOk hsrc ht).answers
    | decompress => exact (decompressBody_tablesOk ht).answers
    | int | leafb | leaft => cases hi

end

/-- Settles O60: every command ends, and of the host's moves only the bind of a source outside the spec is refused. -/
theorem stepNeverFaults : Obligations.StepNeverFaults := by
  intro s hs
  have hnone : s.hdr = none := by
    obtain ⟨-, -, -, -, -, -, hhdr⟩ := hs
    exact hhdr
  cases hi : s.inbox with
  | nil => exact .inl ⟨s, by rw [step, hnone, commandStep, hi]⟩
  | cons a l =>
    have hstep := step_eq_hostAct hnone hi
    cases a with
    | command w =>
      rw [hstep, hostAct]
      cases hw : decodeWord w with
      | ok i =>
        obtain ⟨t, ht⟩ := exec_answers (isCommand_of_decodeWord hw) (hs.withInbox l)
        exact .inl ⟨t, by rw [runCommand, hw]; exact ht⟩
      | error e => exact .inl ⟨_, by rw [runCommand, hw]; rfl⟩
    | bindSource r =>
      rw [hostAct] at hstep
      cases hr : r.legal s.cfg with
      | true => exact .inl ⟨_, hstep.trans (if_pos hr)⟩
      | false => exact .inr ⟨r, l, rfl, hr, hstep.trans (if_neg (by simp [hr]))⟩
    | bindSink k => exact .inl ⟨_, hstep⟩
    | reset => exact .inl ⟨_, hstep⟩

end Sys2Proof.Machine
end
